-- ==== Sys2Proof/Word.lean ====
section
/-! DEFINITION. The quantities of the framer: bytes and 16-bit fields, unsigned (R13, 00_scope.md). -/

namespace Sys2Proof

/-- R13: an 8-bit unsigned value. -/
abbrev Byte := BitVec 8

/-- R15, R73: a raw 16-bit field, unsigned, neither sign-extended nor scaled. -/
abbrev Half := BitVec 16

end Sys2Proof
end

