-- ==== Sys2Proof/Config.lean ====
section
/-! DEFINITION. The constants the source fixes, the elaboration-time configuration and the free value of the output bus
(00_scope.md section 3). -/

namespace Sys2Proof

/-- R6 `MIN_LEN`: the bytes the buffer must hold before the scanner looks at it, and the least frame length. -/
def minLen : Nat := 47

/-- R7 `HDR0`: the byte at frame offset 0. -/
def hdr0 : Byte := 0x54

/-- R7 `HDR1`: the byte at frame offset 1. -/
def hdr1 : Byte := 0x2C

/-- R11 `NPTS_MAX`: the point slots of the output record. -/
def nptsMax : Nat := 12

/-- The parameters fixed at elaboration (R8, R10, R30). No operation writes them (R40). -/
structure Config where
  /-- R8 `LEN_FROM_BYTE1`: the literal reading of the declared length when true. The conforming value is false. -/
  lenFromByte1 : Bool
  /-- R10 `DEPTH`: the capacity of the byte buffer. -/
  depth : Nat
deriving DecidableEq, Repr

/-- The conforming setting (R8) with the reference depth (R10). DESIGN CHOICE, unsafe: log 5. -/
def Config.reference : Config := { lenFromByte1 := false, depth := 64 }

/-- R182, U1: the value of `out_rec` while `out_valid = 0` is any value. The n-th such value drawn. It has no body, so
nothing can be proved of it. DESIGN CHOICE, safe: log 6. -/
opaque Config.freeOutRec : Nat → BitVec 340

end Sys2Proof
end

