-- ==== Sys2Proof/Syntax.lean ====
section
/-! DEFINITION. The operations of opcode_table.json, one constructor per row (30_encoding.md section 4).

A row leaves some bits of its selection word free. A constructor keeps those bits, as they were sampled, so that an
operation and its selection word determine each other. They are no operands: an operation acts on the state the word was
formed from. The one operand outside the words is `in_data` (R100, R102). -/

namespace Sys2Proof

/-- The groups of R81, R82 and R83. Rows are tried in order within a group. `RESET` stands in both port groups. -/
inductive OpGroup where
  | input
  | output
  | scanner
  | decoder
deriving DecidableEq, Repr

inductive Instr where
  /-- R230. -/
  | reset (cancel inValid inReady outValid outReady : Bool)
  /-- R104. -/
  | cancel (inValid inReady outValid outReady : Bool)
  /-- R100: operand `in_data`. -/
  | push (outValid outReady : Bool) (inData : Byte)
  /-- R102: `in_data` is offered and not taken. -/
  | inStall (outValid outReady : Bool) (inData : Byte)
  /-- R180. -/
  | accept (cancel inValid inReady : Bool)
  /-- R181. -/
  | outStall (cancel inValid inReady : Bool)
  /-- R121. -/
  | scanWaitMin (geLen outBusy : Bool) (b0 b1 : Byte)
  /-- R123. -/
  | scanWaitLen (outBusy : Bool)
  /-- R124. -/
  | scanHoldOut
  /-- R125. -/
  | scanFrame
  /-- R122. -/
  | scanDrop (geLen outBusy : Bool) (b0 b1 : Byte)
  /-- R151. -/
  | decTooShort (hdrOk cksEq : Bool)
  /-- R152. -/
  | decBadHeader (cksEq : Bool)
  /-- R161. -/
  | decCksumMismatch
  /-- R162. -/
  | decOk
deriving DecidableEq, Repr

/-- The group whose word an operation is encoded in (`format` and `group` of opcode_table.json). -/
def Instr.group : Instr → OpGroup
  | .reset _ _ _ _ _ => .input
  | .cancel _ _ _ _ => .input
  | .push _ _ _ => .input
  | .inStall _ _ _ => .input
  | .accept _ _ _ => .output
  | .outStall _ _ _ => .output
  | .scanWaitMin _ _ _ _ => .scanner
  | .scanWaitLen _ => .scanner
  | .scanHoldOut => .scanner
  | .scanFrame => .scanner
  | .scanDrop _ _ _ _ => .scanner
  | .decTooShort _ _ => .decoder
  | .decBadHeader _ => .decoder
  | .decCksumMismatch => .decoder
  | .decOk => .decoder

end Sys2Proof
end

