-- ==== Sys2Proof/WellFormed.lean ====
section
/-! DEFINITION. Which operations have a selection word of their own, and which configurations are admitted. -/

namespace Sys2Proof

/-- R82: row 5, `SCAN_DROP`, is tried after the header rows, so its front bytes are no header. Every other row's free bits
may hold any value. -/
def Instr.wf : Instr → Bool
  | .reset _ _ _ _ _ => true
  | .cancel _ _ _ _ => true
  | .push _ _ _ => true
  | .inStall _ _ _ => true
  | .accept _ _ _ => true
  | .outStall _ _ _ => true
  | .scanWaitMin _ _ _ _ => true
  | .scanWaitLen _ => true
  | .scanHoldOut => true
  | .scanFrame => true
  | .scanDrop _ _ b0 b1 => !(b0 == hdr0 && b1 == hdr1)
  | .decTooShort _ _ => true
  | .decBadHeader _ => true
  | .decCksumMismatch => true
  | .decOk => true

/-- R87: a configuration is admitted only if `DEPTH >= 47`. (`LEN_FROM_BYTE1` is a Boolean by its type.) -/
def Config.admitted (c : Config) : Bool := decide (minLen ≤ c.depth)

end Sys2Proof
end

