-- ==== Sys2Proof/Decode.lean ====
section
/-! DEFINITION. The selection words of 30_encoding.md section 4, their row-by-row decoding, and the encoder.

Byte layout of an operation (DESIGN CHOICE, log 10: the hardware stores no instruction words): the port word P in one byte,
followed by `in_data` for PUSH and IN_STALL; the scanner word S in three bytes, the least significant first; the decoder
word D in one byte. Unused high bits are 0. -/

namespace Sys2Proof

/-- Why a sequence of bytes decodes to no operation. -/
inductive DecodeReject where
  /-- Fewer bytes than the group's word or the operand needs. -/
  | truncated
  /-- A bit above the selection word is 1. -/
  | reservedBits
  /-- R81: "Otherwise there is no input operation". -/
  | noInputOperation
  /-- R81: "Otherwise there is no output operation". -/
  | noOutputOperation
deriving DecidableEq, Repr

/-- R81: `P[5:0] = {rst, cancel, in_valid, in_ready, out_valid, out_ready}`. -/
def packPortWord (rst cancel inValid inReady outValid outReady : Bool) : BitVec 6 :=
  BitVec.ofBool rst ++ BitVec.ofBool cancel ++ BitVec.ofBool inValid ++ BitVec.ofBool inReady
    ++ BitVec.ofBool outValid ++ BitVec.ofBool outReady

/-- R82: `S[18:0] = {ge_min, ge_len, out_busy, b0[7:0], b1[7:0]}`. -/
def packScanWord (geMin geLen outBusy : Bool) (b0 b1 : Byte) : BitVec 19 :=
  BitVec.ofBool geMin ++ BitVec.ofBool geLen ++ BitVec.ofBool outBusy ++ b0 ++ b1

/-- R83: `D[2:0] = {short, hdr_ok, cks_eq}`. -/
def packDecWord (short hdrOk cksEq : Bool) : BitVec 3 :=
  BitVec.ofBool short ++ BitVec.ofBool hdrOk ++ BitVec.ofBool cksEq

/-- A row selects a word when `(word & mask) = match` (30_encoding.md section 4). -/
def rowSelects {n : Nat} (w mask pattern : BitVec n) : Bool := (w &&& mask) == pattern

/-- R81, input group, in the order given. `d` is `in_data`. -/
def decodeInput (p : BitVec 6) (d : Byte) : Except DecodeReject Instr :=
  if rowSelects p 0x20 0x20 then
    .ok (.reset (p.getLsbD 4) (p.getLsbD 3) (p.getLsbD 2) (p.getLsbD 1) (p.getLsbD 0))
  else if rowSelects p 0x30 0x10 then
    .ok (.cancel (p.getLsbD 3) (p.getLsbD 2) (p.getLsbD 1) (p.getLsbD 0))
  else if rowSelects p 0x3C 0x0C then .ok (.push (p.getLsbD 1) (p.getLsbD 0) d)
  else if rowSelects p 0x3C 0x08 then .ok (.inStall (p.getLsbD 1) (p.getLsbD 0) d)
  else .error .noInputOperation

/-- R81, output group, in the order given. -/
def decodeOutput (p : BitVec 6) : Except DecodeReject Instr :=
  if rowSelects p 0x20 0x20 then
    .ok (.reset (p.getLsbD 4) (p.getLsbD 3) (p.getLsbD 2) (p.getLsbD 1) (p.getLsbD 0))
  else if rowSelects p 0x23 0x03 then .ok (.accept (p.getLsbD 4) (p.getLsbD 3) (p.getLsbD 2))
  else if rowSelects p 0x23 0x02 then .ok (.outStall (p.getLsbD 4) (p.getLsbD 3) (p.getLsbD 2))
  else .error .noOutputOperation

/-- R82, rows in order. Row 5 is the last: a word no earlier row selects has `ge_min = 1` and no header. -/
def decodeScanner (w : BitVec 19) : Instr :=
  if rowSelects w 0x40000 0x00000 then
    .scanWaitMin (w.getLsbD 17) (w.getLsbD 16) (w.extractLsb' 8 8) (w.extractLsb' 0 8)
  else if rowSelects w 0x6FFFF 0x4542C then .scanWaitLen (w.getLsbD 16)
  else if rowSelects w 0x7FFFF 0x7542C then .scanHoldOut
  else if rowSelects w 0x7FFFF 0x6542C then .scanFrame
  else .scanDrop (w.getLsbD 17) (w.getLsbD 16) (w.extractLsb' 8 8) (w.extractLsb' 0 8)

/-- R83, rows in order. Row 4 is the last: the only word no earlier row selects is `0b011`. -/
def decodeDecoder (w : BitVec 3) : Instr :=
  if rowSelects w 4 4 then .decTooShort (w.getLsbD 1) (w.getLsbD 0)
  else if rowSelects w 6 0 then .decBadHeader (w.getLsbD 0)
  else if rowSelects w 7 2 then .decCksumMismatch
  else .decOk

/-- The operand byte that follows the port word of PUSH and IN_STALL is taken off the rest. -/
def takeOperand (i : Instr) (rest : List Byte) : Except DecodeReject (Instr × List Byte) :=
  match i with
  | .push _ _ _ | .inStall _ _ _ =>
    match rest with
    | [] => .error .truncated
    | _ :: rest' => .ok (i, rest')
  | _ => .ok (i, rest)

/-- Decode one operation of a group from bytes, in the layout above; total. -/
def decodeBytes (g : OpGroup) (bs : List Byte) : Except DecodeReject (Instr × List Byte) :=
  match g, bs with
  | .input, p :: rest =>
    if p.extractLsb' 6 2 != 0 then .error .reservedBits
    else
      match decodeInput (p.setWidth 6) (rest.headD 0) with
      | .error e => .error e
      | .ok i => takeOperand i rest
  | .output, p :: rest =>
    if p.extractLsb' 6 2 != 0 then .error .reservedBits
    else
      match decodeOutput (p.setWidth 6) with
      | .error e => .error e
      | .ok i => .ok (i, rest)
  | .scanner, x0 :: x1 :: x2 :: rest =>
    if x2.extractLsb' 3 5 != 0 then .error .reservedBits
    else .ok (decodeScanner ((x2 ++ x1 ++ x0).setWidth 19), rest)
  | .decoder, x :: rest =>
    if x.extractLsb' 3 5 != 0 then .error .reservedBits
    else .ok (decodeDecoder (x.setWidth 3), rest)
  | _, _ => .error .truncated

/-- The port word of a port operation with its free bits; 0 for the other groups. -/
def encodePort : Instr → BitVec 6
  | .reset c v r ov o => packPortWord true c v r ov o
  | .cancel v r ov o => packPortWord false true v r ov o
  | .push ov o _ => packPortWord false false true true ov o
  | .inStall ov o _ => packPortWord false false true false ov o
  | .accept c v r => packPortWord false c v r true true
  | .outStall c v r => packPortWord false c v r true false
  | _ => 0

/-- The scanner word of a scanner operation; 0 for the other groups. -/
def encodeScanner : Instr → BitVec 19
  | .scanWaitMin l o b0 b1 => packScanWord false l o b0 b1
  | .scanWaitLen o => packScanWord true false o hdr0 hdr1
  | .scanHoldOut => packScanWord true true true hdr0 hdr1
  | .scanFrame => packScanWord true true false hdr0 hdr1
  | .scanDrop l o b0 b1 => packScanWord true l o b0 b1
  | _ => 0

/-- The decoder word of a decoder row; 0 for the other groups. -/
def encodeDecoder : Instr → BitVec 3
  | .decTooShort h c => packDecWord true h c
  | .decBadHeader c => packDecWord false false c
  | .decCksumMismatch => packDecWord false true false
  | .decOk => packDecWord false true true
  | _ => 0

/-- The operand bytes after the selection word. -/
def operandBytes : Instr → List Byte
  | .push _ _ d => [d]
  | .inStall _ _ d => [d]
  | _ => []

/-- The bytes of an operation, in the layout above. -/
def encode (i : Instr) : List Byte :=
  match i.group with
  | .input | .output => (encodePort i).setWidth 8 :: operandBytes i
  | .scanner =>
    let w := (encodeScanner i).setWidth 24
    [w.extractLsb' 0 8, w.extractLsb' 8 8, w.extractLsb' 16 8]
  | .decoder => [(encodeDecoder i).setWidth 8]

/-- The groups a word of the table may belong to, in the table's order. The table's words are 6, 19 and 3 bits wide; in whole
bytes a port word and a decoder word have the same width, and the port rows stand first. DESIGN CHOICE: log 11. -/
def tableGroups (nbits : Nat) : List OpGroup :=
  if nbits ≤ 3 then [.decoder]
  else if nbits ≤ 6 then [.input, .output]
  else if nbits ≤ 8 then [.input, .output, .decoder]
  else [.scanner]

/-- The four low bytes of a table word, the first at the lowest address. -/
def tableBytes (w : Nat) : List Byte :=
  [BitVec.ofNat 8 w, BitVec.ofNat 8 (w / 256), BitVec.ofNat 8 (w / 65536), BitVec.ofNat 8 (w / 16777216)]

/-- The first of the groups that decodes the bytes, with what it decodes to. -/
def firstDecoding (bs : List Byte) : List OpGroup → Option (OpGroup × Instr)
  | [] => none
  | g :: gs =>
    match decodeBytes g bs with
    | .ok (i, _) => some (g, i)
    | .error _ => firstDecoding bs gs

/-- The operation the decoder reads from a word numbered as opcode_table.json numbers it; `in_data` above it is 0. -/
def decodeTableWord (nbits w : Nat) : Option Instr :=
  (firstDecoding (tableBytes w) (tableGroups nbits)).map Prod.snd

end Sys2Proof
end

