-- ==== Sys2Proof/Machine/State.lean ====
section
/-! DEFINITION. The state of the framer (10_state.md), its records, errors and events, and the state after reset. Plain data. -/

namespace Sys2Proof.Machine

/-- R77(e): one point, raw. -/
structure Point where
  distRaw : Half
  inten : Byte
deriving DecidableEq, Repr

/-- R77: the logical record (the document's ScanRecord). -/
structure Record where
  speedRaw : Half
  startRaw : Half
  endRaw : Half
  npts : BitVec 4
  points : List Point
deriving DecidableEq, Repr

/-- R200: the decode error kinds. -/
inductive ErrKind where
  | tooShort
  | badHeader
  | checksumMismatch
deriving DecidableEq, Repr

/-- R150: what Decode returns. -/
inductive DecodeResult where
  | ok (r : Record)
  | err (k : ErrKind)
deriving DecidableEq, Repr

/-- R21: the events of the trace. -/
inductive Event where
  /-- `REC(r)`: a record was placed in the output holding register. -/
  | record (r : Record)
  /-- `ERR(k)`: a frame was discarded with decode error kind `k`. -/
  | err (k : ErrKind)
  /-- `DROP`: one byte was discarded during resynchronisation. -/
  | drop
  /-- `ACC`: the sink accepted the presented record. -/
  | acc
deriving DecidableEq, Repr

/-- R70: the levels on the input ports. -/
structure Pins where
  rst : Bool
  cancel : Bool
  inValid : Bool
  inData : Byte
  outReady : Bool
deriving DecidableEq, Repr

/-- Idle inputs, the sink ready: the level of `out_ready` after RESET in R86. DESIGN CHOICE, log 2. -/
def Pins.idle : Pins :=
  { rst := false, cancel := false, inValid := false, inData := 0, outReady := true }

/-- R17: which agent moves. `decoder f` is a standalone Decode call on the slice `f` (R150), no agent of R17;
logs 7 and 8. -/
inductive Turn where
  | input
  | output
  | scanner
  | decoder (f : List Byte)
deriving DecidableEq, Repr

/-- One entry of the schedule: an agent's turn and the input levels held while it moves. -/
structure Slot where
  turn : Turn
  pins : Pins
deriving DecidableEq, Repr

/-- R50: the one address space, the bytes of the FIFO from the oldest. The byte at list position `k` is the byte at offset
`k`, so a list is one memory and one memory is one list: the form is canonical by construction (log 13). -/
abbrev Memory := List Byte

/-- The memory as cells at rising offsets; an offset that is not listed holds nothing (R53). -/
def Memory.cells (m : Memory) : List Host.Cell := m.zipIdx.map fun c => (c.2, c.1)

/-- The canonical form: the offsets strictly rise and at most `cap` bytes are held (R33). -/
def Memory.wf (cap : Nat) (m : Memory) : Bool :=
  decide (m.cells.Pairwise fun a b => a.1 < b.1) && decide (m.length ≤ cap)

/-- Why the machine stops. No rule of the spec reaches one of these (R53, R209). -/
inductive Fault where
  /-- U17: a read of the buffer at an offset at or beyond `|buf|`. Raised by `bufPeek` and `bufSlice`. Safe. -/
  | readPastEnd
  /-- R16: `BufRemove(n)` requires `n <= |buf|`. Raised by `bufRemove`. Safe. -/
  | removePastEnd
deriving DecidableEq, Repr

/-- Why a step has no meaning. -/
inductive Refusal where
  /-- An operation the model does not give a meaning yet. Raised by `exec`'s refused arms; there is none. Safe. -/
  | notModelled (mnemonic : String)
  /-- R87: a configuration with `DEPTH < 47`. Raised by `step`, and by the CONFIG command of a script. Safe. -/
  | configNotAdmitted
deriving DecidableEq, Repr

structure State where
  /-- R8, R10, R30: fixed at elaboration. -/
  cfg : Config
  /-- R20: the byte buffer, oldest byte first. -/
  buf : Memory
  /-- R23. -/
  outValid : Bool
  /-- R23, R78: the output bus. -/
  outRec : BitVec 340
  /-- R24. -/
  errValid : Bool
  /-- R24, R80. -/
  errCode : BitVec 2
  /-- R25. -/
  dropPulse : Bool
  /-- R21: the events emitted, oldest first; only in the model. -/
  trace : List Event
  /-- R28: the stream offset of the buffer's front; a ghost counter. -/
  consumed : Nat
  /-- R70: the input levels held. -/
  pins : Pins
  /-- R150: the argument of a standalone Decode call; the model's own (log 8). -/
  decIn : List Byte
  /-- R150: the result of the last standalone Decode call; the model's own (log 8). -/
  decOut : Option DecodeResult
  /-- R180: the bus values the sink has received, oldest first; the model's own (log 14). -/
  received : List (BitVec 340)
  /-- R132: the bytes pushed since the last reset or cancel; the model's own (log 14). -/
  stream : List Byte
  /-- R132: the trace's length at the last reset or cancel; the model's own (log 14). -/
  epochStart : Nat
  /-- R182: how many free values of `out_rec` have been drawn; the model's own (log 6). -/
  draws : Nat
  /-- R17: the turns to come; the model's own (log 1). -/
  sched : List Slot
deriving DecidableEq, Repr

/-- The machine right after reset (R35 to R40) in a given configuration. The value of `outRec` is a DESIGN CHOICE (R37 leaves
it unspecified; log 6), and so are the idle inputs (log 2) and the model's own fields (logs 1, 8 and 14). -/
def State.resetWith (c : Config) : State :=
  { cfg := c, buf := [], outValid := false, outRec := 0, errValid := false, errCode := 0, dropPulse := false,
    trace := [], consumed := 0, pins := Pins.idle, decIn := [], decOut := none, received := [], stream := [],
    epochStart := 0, draws := 0, sched := [] }

/-- The machine right after reset in the reference configuration (log 5). -/
def State.reset : State := State.resetWith Config.reference

end Sys2Proof.Machine
end

