-- ==== Sys2Proof/Machine/Operands.lean ====
section
/-! DEFINITION. The operand forms: bytes and 16-bit fields of a byte sequence, the header test, the declared length, the
checksum, the points, and the two formats a record is carried in (the wire frame and the output bus). -/

namespace Sys2Proof.Machine

/-- `f[k]`. Every read the rules make is in range (R53, R167), so the value past the end is never used. -/
def byteAt (f : List Byte) (k : Nat) : Byte := f.getD k 0

/-- R15: `LE16(f, k) = {f[k+1], f[k]}`. -/
def le16 (f : List Byte) (k : Nat) : Half := byteAt f (k + 1) ++ byteAt f k

/-- R54: the two bytes of a 16-bit field, the less significant first. -/
def le16Bytes (v : Half) : List Byte := [v.extractLsb' 0 8, v.extractLsb' 8 8]

/-- R7: the header signature at offsets 0 and 1. -/
def headerAt (f : List Byte) : Bool := byteAt f 0 == hdr0 && byteAt f 1 == hdr1

/-- R8: `decl_len(b1)`. -/
def declLen (c : Config) (b1 : Byte) : Nat := if c.lenFromByte1 then b1.toNat else minLen

/-- R9: `L = decl_len(HDR1)`. -/
def sliceLen (c : Config) : Nat := declLen c hdr1

/-- R158: `(D - 9) div 3`, the remainder discarded. -/
def pointCount (declared : Nat) : Nat := (declared - 9) / 3

/-- R159: point `i` of a frame. -/
def pointAt (f : List Byte) (i : Nat) : Point :=
  { distRaw := le16 f (6 + 3 * i), inten := byteAt f (8 + 3 * i) }

/-- The exact sum of a sequence of bytes. -/
def byteSum (f : List Byte) : Nat := (f.map BitVec.toNat).sum

/-- R157: the checksum field, the final two bytes. -/
def checksumField (f : List Byte) : Half := le16 f (f.length - 2)

/-- R160: the sum of every byte but the final two, modulo 65536. -/
def checksumCalc (f : List Byte) : Half := BitVec.ofNat 16 (byteSum (f.take (f.length - 2)))

/-- R164(b): the same sum in a 16-bit register that wraps on each addition. -/
def checksumAccumulate (f : List Byte) : Half :=
  (f.take (f.length - 2)).foldl (fun acc b => acc + b.setWidth 16) 0

/-- R80: the code of an error kind. -/
def errKindCode : ErrKind → BitVec 2
  | .tooShort => 0b01
  | .badHeader => 0b10
  | .checksumMismatch => 0b11

/-- R78, R79: the 24 bits of point slot `i`, `{inten, dist_raw}`; 0 from slot `npts` on. -/
def pointSlot (r : Record) (i : Nat) : Nat :=
  if i < r.npts.toNat then
    match r.points[i]? with
    | some p => p.distRaw.toNat + 2 ^ 16 * p.inten.toNat
    | none => 0
  else 0

/-- R78: `n` point slots from slot `i` up, slot `i` least significant. -/
def pointSlots (r : Record) : Nat → Nat → Nat
  | _, 0 => 0
  | i, n + 1 => pointSlot r i + 2 ^ 24 * pointSlots r (i + 1) n

/-- R78: the 340-bit bus layout of a record. -/
def packRecord (r : Record) : BitVec 340 :=
  BitVec.ofNat 340
    (r.speedRaw.toNat + 2 ^ 16 * (r.startRaw.toNat + 2 ^ 16 * (r.endRaw.toNat + 2 ^ 16 *
      (r.npts.toNat + 2 ^ 4 * pointSlots r 0 nptsMax))))

/-- R78 read back: the record a bus value carries. -/
def unpackRecord (v : BitVec 340) : Record :=
  { speedRaw := v.extractLsb' 0 16
    startRaw := v.extractLsb' 16 16
    endRaw := v.extractLsb' 32 16
    npts := v.extractLsb' 48 4
    points := (List.range (v.extractLsb' 48 4).toNat).map fun i =>
      { distRaw := v.extractLsb' (52 + 24 * i) 16, inten := v.extractLsb' (52 + 24 * i + 16) 8 } }

/-- R77(d), R84(b): the records Decode can return: 11 or 12 points, as many as `npts` says. -/
def Record.wf (r : Record) : Bool :=
  (r.npts == 11 || r.npts == 12) && r.points.length == r.npts.toNat

/-- R71: the wire bytes of one point. -/
def pointBytes (p : Point) : List Byte := le16Bytes p.distRaw ++ [p.inten]

/-- R71: every byte of a frame before the checksum field, with the given spare bytes (R75). -/
def frameBody (r : Record) (spare : List Byte) : List Byte :=
  [hdr0, hdr1] ++ le16Bytes r.speedRaw ++ le16Bytes r.startRaw ++ r.points.flatMap pointBytes ++ spare
    ++ le16Bytes r.endRaw

/-- R71, R76: the wire frame of a record, its checksum field holding the truncating sum of every byte before it. -/
def encodeFrame (r : Record) (spare : List Byte) : List Byte :=
  frameBody r spare ++ le16Bytes (BitVec.ofNat 16 (byteSum (frameBody r spare)))

/-- R74(a): speed in degrees per second. The consumer's reading; the framer divides nothing. -/
def Record.speed (r : Record) : Rat := (r.speedRaw.toNat : Rat) / 100

/-- R74(b): start angle in degrees. -/
def Record.startAngle (r : Record) : Rat := (r.startRaw.toNat : Rat) / 100

/-- R74(b): end angle in degrees. -/
def Record.endAngle (r : Record) : Rat := (r.endRaw.toNat : Rat) / 100

/-- R74(c): distance in metres. -/
def Point.distance (p : Point) : Rat := (p.distRaw.toNat : Rat) / 1000

end Sys2Proof.Machine
end

