-- ==== Sys2Proof/Machine/Flags.lean ====
section
/-! DEFINITION. The status outputs and the selection bits computed from the state, and the selection words they form
(10_state.md, 30_encoding.md section 4). None of them is stored. -/

namespace Sys2Proof.Machine

/-- R26: `in_ready = (rst = 0) and (cancel = 0) and (|buf| < DEPTH)`. -/
def inReady (s : State) : Bool :=
  !s.pins.rst && !s.pins.cancel && decide (s.buf.length < s.cfg.depth)

/-- R82 `ge_min`. -/
def geMin (m : Memory) : Bool := decide (minLen ≤ m.length)

/-- R82 `ge_len`: `|buf| >= decl_len(buf[1])`. -/
def geLen (c : Config) (m : Memory) : Bool := decide (declLen c (byteAt m 1) ≤ m.length)

/-- R120: a scanner step can happen only when `rst = 0` and `cancel = 0`. -/
def scannerFree (s : State) : Bool := !s.pins.rst && !s.pins.cancel

/-- R29: the states of the packet scanner. -/
inductive ScanState where
  | waitMin
  | drop
  | waitLen
  | holdOut
  | frame
deriving DecidableEq, Repr

/-- R29: `scan_state(buf, out_valid)`. -/
def scanState (c : Config) (m : Memory) (outValid : Bool) : ScanState :=
  if m.length < minLen then .waitMin
  else if !headerAt m then .drop
  else if m.length < declLen c (byteAt m 1) then .waitLen
  else if outValid then .holdOut
  else .frame

/-- R81: the port word, from the input levels and the state. -/
def portWord (s : State) : BitVec 6 :=
  packPortWord s.pins.rst s.pins.cancel s.pins.inValid (inReady s) s.outValid s.pins.outReady

/-- R82: the scanner word; `ge_len`, `b0` and `b1` are set to 0 when `ge_min = 0`. -/
def scanWord (s : State) : BitVec 19 :=
  if geMin s.buf then
    packScanWord true (geLen s.cfg s.buf) s.outValid (byteAt s.buf 0) (byteAt s.buf 1)
  else packScanWord false false s.outValid 0 0

/-- R83 `short`. -/
def shortFrame (f : List Byte) : Bool := decide (f.length < minLen)

/-- R83 `cks_eq`. -/
def checksumEq (f : List Byte) : Bool := checksumCalc f == checksumField f

/-- R83: the decoder word of a frame; its don't-care bits are set to 0. -/
def decWord (f : List Byte) : BitVec 3 :=
  if shortFrame f then packDecWord true false false
  else if headerAt f then packDecWord false true (checksumEq f)
  else packDecWord false false false

end Sys2Proof.Machine
end

