-- ==== Sys2Proof/Machine/Ops.lean ====
section
/-! DEFINITION. The operations every meaning is written over: buffer accesses, the output register, the trace, a decode
error's entry, and what happens around an agent's turn. -/

namespace Sys2Proof.Machine

/-! ## The buffer (20_memory.md) -/

/-- R53: what offset `k` holds; nothing at or beyond `|buf|`. -/
def Memory.read (m : Memory) (k : Nat) : Option Byte := m[k]?

/-- R16, R53: `buf[k]`, a peek. U17: a read at or beyond `|buf|` faults. -/
def bufPeek (k : Nat) (s : State) : Except Fault Byte :=
  match s.buf.read k with
  | some b => .ok b
  | none => .error .readPastEnd

/-- R14, R53: `buf[0 .. n)`, a peek. -/
def bufSlice (n : Nat) (s : State) : Except Fault (List Byte) :=
  if n ≤ s.buf.length then .ok (s.buf.take n) else .error .readPastEnd

/-- R16, R51: `BufAppend(b)`, the only write. The pushed byte joins the stream of R132. -/
def bufAppend (b : Byte) (s : State) : State :=
  { s with buf := s.buf ++ [b], stream := s.stream ++ [b] }

/-- R16, R52: `BufRemove(n)`, from the front; requires `n <= |buf|`. R28: `consumed` grows by `n`. -/
def bufRemove (n : Nat) (s : State) : Except Fault State :=
  if n ≤ s.buf.length then .ok { s with buf := s.buf.drop n, consumed := s.consumed + n }
  else .error .removePastEnd

/-- R52, R104, R230: `buf <- []`. R28: `consumed` moves to the number of bytes pushed. R132: the stream and the events of
the reference sequence start anew. -/
def bufEmpty (s : State) : State :=
  { s with buf := [], consumed := s.consumed + s.buf.length, stream := [], epochStart := s.trace.length }

/-! ## The output register, the pulses and the trace -/

/-- R16: `Emit(e)`. -/
def emit (e : Event) (s : State) : State := { s with trace := s.trace ++ [e] }

/-- R182, U1: `out_rec <- (unspecified)`, a fresh free value (log 6). -/
def drawOutRec (s : State) : State :=
  { s with outRec := Config.freeOutRec s.draws, draws := s.draws + 1 }

/-- R24, R25, R245: `err_valid <- 0; err_code <- 0b00; drop_pulse <- 0`. -/
def clearPulses (s : State) : State := { s with errValid := false, errCode := 0, dropPulse := false }

/-- R122, R25: `drop_pulse <- 1`. -/
def setDropPulse (s : State) : State := { s with dropPulse := true }

/-- R126: `out_rec <- encode(r)`, `out_valid <- 1`, `Emit(REC(r))`. -/
def presentRecord (r : Record) (s : State) : State :=
  emit (.record r) { s with outRec := packRecord r, outValid := true }

/-- Taking a decode error (R127, R207): `err_valid <- 1`, `err_code <- code(k)`, `Emit(ERR(k))`, and nothing more. No state
is saved, no mode changes, `out_valid` and `out_rec` keep their values. There is no return operation (R208): the report
ends with `clearPulses` at the start of the next step. -/
def raiseDecodeError (k : ErrKind) (s : State) : State :=
  emit (.err k) { s with errValid := true, errCode := errKindCode k }

/-- R180: the sink receives `out_rec`; `out_valid <- 0`; `Emit(ACC)`; `out_rec` becomes unspecified. -/
def handOver (s : State) : State :=
  drawOutRec (emit .acc { s with outValid := false, received := s.received ++ [s.outRec] })

/-- R230, R35 to R40: every state element to its reset value; the configuration and the trace keep theirs. -/
def resetAll (s : State) : State :=
  drawOutRec (clearPulses (bufEmpty { s with outValid := false }))

/-! ## Around a turn -/

/-- What every step begins with, whatever its turn: the pulses of the step before end (R24, R25, log 7), and while
`out_valid = 0` the bus holds any value (R182, log 6). -/
def tick (s : State) : State :=
  if s.outValid then clearPulses s else drawOutRec (clearPulses s)

/-- The agent whose turn it is: the schedule's first; with none scheduled, the scanner (R129, log 3). -/
def turnNow (s : State) : Turn :=
  match s.sched with
  | [] => .scanner
  | slot :: _ => slot.turn

/-- The argument of a standalone Decode call is set by its turn; any other turn leaves it. -/
def turnArgument (t : Turn) (s : State) : State :=
  match t with
  | .decoder f => { s with decIn := f }
  | _ => s

/-- Take the first slot off the schedule and hold its input levels; with none scheduled the inputs stay as they are. -/
def takeSlot (s : State) : State :=
  match s.sched with
  | [] => s
  | slot :: rest => turnArgument slot.turn { s with sched := rest, pins := slot.pins }

/-- The state in which the operation of this step is selected. DESIGN CHOICE, unsafe: the turn of a standalone Decode call, no
agent of R17, is a step like any other here, so it ends the pulses and redraws the unpresented bus value too; the spec
leaves open whether such a call counts as the one step of R24 and R25 (log 7). -/
def beginStep (s : State) : State := tick (takeSlot s)

end Sys2Proof.Machine
end

