-- ==== Sys2Proof/Machine/InputPort.lean ====
section
/-! DEFINITION. The input port's operations (40_ingest.md) and RESET (70_reset_and_hazards.md). Each acts under its enabling
condition; without it nothing changes (log 9). -/

namespace Sys2Proof.Machine

/-- R230 RESET. -/
def execReset (s : State) : Host.Outcome State Fault Refusal :=
  if s.pins.rst then .next (resetAll s) else .next s

/-- R104 CANCEL: the buffer is emptied, the presented record is kept, no pulse follows, no event. -/
def execCancel (s : State) : Host.Outcome State Fault Refusal :=
  if !s.pins.rst && s.pins.cancel then .next (clearPulses (bufEmpty s)) else .next s

/-- R100 PUSH, enabled exactly when `in_ready = 1` (R101). -/
def execPush (b : Byte) (s : State) : Host.Outcome State Fault Refusal :=
  if s.pins.inValid && inReady s then .next (bufAppend b s) else .next s

/-- R102 IN_STALL: no change; the byte is not taken. -/
def execInStall (s : State) : Host.Outcome State Fault Refusal := .next s

end Sys2Proof.Machine
end

