-- ==== Sys2Proof/Machine/OutputPort.lean ====
section
/-! DEFINITION. The output port's operations (43_output.md). -/

namespace Sys2Proof.Machine

/-- R180 ACCEPT; allowed while `cancel = 1` (corner case (a)). -/
def execAccept (s : State) : Host.Outcome State Fault Refusal :=
  if !s.pins.rst && s.outValid && s.pins.outReady then .next (handOver s) else .next s

/-- R181 OUT_STALL: no change to `out_valid` or `out_rec`. -/
def execOutStall (s : State) : Host.Outcome State Fault Refusal := .next s

end Sys2Proof.Machine
end

