-- ==== Sys2Proof/Machine/PacketDecoder.lean ====
section
/-! DEFINITION. The packet decoder (42_decoder.md): the pure function Decode, and the four decoder rows as the outcomes of a
standalone Decode call (log 8). -/

namespace Sys2Proof.Machine

/-- R153 to R159, R162: the record of a frame. The end angle is placed by the slice's own length, the point count comes from
the declared length (R85). -/
def parseRecord (c : Config) (f : List Byte) : Record :=
  let np := pointCount (declLen c (byteAt f 1))
  { speedRaw := le16 f 2
    startRaw := le16 f 4
    endRaw := le16 f (f.length - 4)
    npts := BitVec.ofNat 4 np
    points := (List.range np).map (pointAt f) }

/-- R150: Decode, total and pure. The order of the checks is the order of R205. -/
def decodeFrame (c : Config) (f : List Byte) : DecodeResult :=
  if f.length < minLen then .err .tooShort
  else if !headerAt f then .err .badHeader
  else if checksumCalc f != checksumField f then .err .checksumMismatch
  else .ok (parseRecord c f)

/-- R151: a standalone call on a slice shorter than 47 bytes returns TooShort. -/
def execDecTooShort (s : State) : Host.Outcome State Fault Refusal :=
  if shortFrame s.decIn then .next { s with decOut := some (.err .tooShort) } else .next s

/-- R152: on a slice that is long enough and has no header, BadHeader. -/
def execDecBadHeader (s : State) : Host.Outcome State Fault Refusal :=
  if !shortFrame s.decIn && !headerAt s.decIn then .next { s with decOut := some (.err .badHeader) } else .next s

/-- R161: with length and header good and the sums different, ChecksumMismatch. -/
def execDecCksumMismatch (s : State) : Host.Outcome State Fault Refusal :=
  if !shortFrame s.decIn && headerAt s.decIn && !checksumEq s.decIn then
    .next { s with decOut := some (.err .checksumMismatch) }
  else .next s

/-- R162: with every check passed, the assembled record. -/
def execDecOk (s : State) : Host.Outcome State Fault Refusal :=
  if !shortFrame s.decIn && headerAt s.decIn && checksumEq s.decIn then
    .next { s with decOut := some (.ok (parseRecord s.cfg s.decIn)) }
  else .next s

end Sys2Proof.Machine
end

