-- ==== Sys2Proof/Machine/Scanner.lean ====
section
/-! DEFINITION. The packet scanner's operations (41_scanner.md). -/

namespace Sys2Proof.Machine

/-- R121 SCAN_WAIT_MIN: no step. -/
def execScanWaitMin (s : State) : Host.Outcome State Fault Refusal := .next s

/-- R123 SCAN_WAIT_LEN: no step. -/
def execScanWaitLen (s : State) : Host.Outcome State Fault Refusal := .next s

/-- R124 SCAN_HOLD_OUT: no step. -/
def execScanHoldOut (s : State) : Host.Outcome State Fault Refusal := .next s

/-- R122 SCAN_DROP: with 47 bytes held and no header at the front, remove exactly one byte. -/
def execScanDrop (s : State) : Host.Outcome State Fault Refusal :=
  if scannerFree s && geMin s.buf && !headerAt s.buf then
    match bufRemove 1 s with
    | .ok s' => .next (emit .drop (setDropPulse s'))
    | .error e => .fault e
  else .next s

/-- R126, R127: what becomes of a decoded candidate frame. -/
def dispatchFrame (result : DecodeResult) (s : State) : State :=
  match result with
  | .ok r => presentRecord r s
  | .err k => raiseDecodeError k s

/-- R125 SCAN_FRAME: slice, remove, decode, dispatch, as one atomic step (R56). -/
def execScanFrame (s : State) : Host.Outcome State Fault Refusal :=
  if scannerFree s && geMin s.buf && headerAt s.buf && geLen s.cfg s.buf && !s.outValid then
    match bufPeek 1 s with
    | .error e => .fault e
    | .ok b1 =>
      match bufSlice (declLen s.cfg b1) s, bufRemove (declLen s.cfg b1) s with
      | .ok f, .ok s' => .next (dispatchFrame (decodeFrame s.cfg f) s')
      | .error e, _ => .fault e
      | _, .error e => .fault e
  else .next s

end Sys2Proof.Machine
end

