-- ==== Sys2Proof/Machine/Dispatch.lean ====
section
/-! DEFINITION. One arm per operation. -/

namespace Sys2Proof.Machine

def exec (i : Instr) (s : State) : Host.Outcome State Fault Refusal :=
  match i with
  | .reset _ _ _ _ _ => Sys2Proof.Machine.execReset s
  | .cancel _ _ _ _ => Sys2Proof.Machine.execCancel s
  | .push _ _ b => Sys2Proof.Machine.execPush b s
  | .inStall _ _ _ => Sys2Proof.Machine.execInStall s
  | .accept _ _ _ => Sys2Proof.Machine.execAccept s
  | .outStall _ _ _ => Sys2Proof.Machine.execOutStall s
  | .scanWaitMin _ _ _ _ => Sys2Proof.Machine.execScanWaitMin s
  | .scanWaitLen _ => Sys2Proof.Machine.execScanWaitLen s
  | .scanHoldOut => Sys2Proof.Machine.execScanHoldOut s
  | .scanFrame => Sys2Proof.Machine.execScanFrame s
  | .scanDrop _ _ _ _ => Sys2Proof.Machine.execScanDrop s
  | .decTooShort _ _ => Sys2Proof.Machine.execDecTooShort s
  | .decBadHeader _ => Sys2Proof.Machine.execDecBadHeader s
  | .decCksumMismatch => Sys2Proof.Machine.execDecCksumMismatch s
  | .decOk => Sys2Proof.Machine.execDecOk s

end Sys2Proof.Machine
end

