-- ==== Sys2Proof/Machine/Fetch.lean ====
section
/-! DEFINITION. How a turn comes to its operation: the selection word is formed from the state and decoded (30_encoding.md
section 4, R120, R206); and how a given selection word is made the next one. -/

namespace Sys2Proof.Machine

/-- The operation a decoded word names, if it names one. -/
def selected (d : Except DecodeReject Instr) : Option Instr :=
  match d with
  | .ok i => some i
  | .error _ => none

/-- The operation of a turn. R81: RESET overrides every other operation of the block, the scanner's included. R82: with
`cancel = 1` the scanner takes no step (log 18). A standalone Decode call is outside the block and is selected by its frame alone. -/
def select (t : Turn) (s : State) : Option Instr :=
  match t with
  | .input => selected (decodeInput (portWord s) s.pins.inData)
  | .output => selected (decodeOutput (portWord s))
  | .scanner =>
    if s.pins.rst then selected (decodeInput (portWord s) s.pins.inData)
    else if s.pins.cancel then none
    else some (decodeScanner (scanWord s))
  | .decoder _ => some (decodeDecoder (decWord s.decIn))

/-- One agent's turn: the selected operation, or no operation and no change. -/
def takeTurn (t : Turn) (s : State) : Host.Outcome State Fault Refusal :=
  match select t s with
  | some i => exec i s
  | none => .next s

/-- Several turns, in order, with the inputs as they stand; a stop ends them. -/
def takeTurns : List Turn → State → Host.Outcome State Fault Refusal
  | [], s => .next s
  | t :: ts, s =>
    match takeTurn t s with
    | .next s' => takeTurns ts s'
    | .fault e => .fault e
    | .refused e => .refused e

/-! ## A given word as the next one (log 4) -/

/-- Input levels that hold the input bits of a port word; `in_data` is 0. -/
def pinsOfWord (p : BitVec 6) : Pins :=
  { rst := p.getLsbD 5, cancel := p.getLsbD 4, inValid := p.getLsbD 3, inData := 0, outReady := p.getLsbD 0 }

/-- A buffer whose fullness gives the word's `in_ready` bit, where `rst` and `cancel` leave it to the buffer; the buffer
held already where it does. -/
def bufForReady (p : BitVec 6) (s : State) : Memory :=
  if p.getLsbD 5 || p.getLsbD 4 || p.getLsbD 2 == decide (s.buf.length < s.cfg.depth) then s.buf
  else if p.getLsbD 2 then []
  else List.replicate s.cfg.depth 0

/-- The state whose next turn is `t` with the given port word. -/
def withPortWord (t : Turn) (p : BitVec 6) (s : State) : State :=
  { s with buf := bufForReady p s, outValid := p.getLsbD 1, sched := { turn := t, pins := pinsOfWord p } :: s.sched }

/-- A buffer that forms the given scanner word. For a header word with `ge_min = 1` and `ge_len = 0` there is none (R123); 46
bytes are held then, so that the scanner waits for more bytes (log 12). -/
def bufForScan (w : BitVec 19) (s : State) : Memory :=
  if w.getLsbD 18 then
    if w.extractLsb' 0 16 == hdr0 ++ hdr1 && !w.getLsbD 17 then
      w.extractLsb' 8 8 :: w.extractLsb' 0 8 :: List.replicate (minLen - 3) 0
    else w.extractLsb' 8 8 :: w.extractLsb' 0 8 :: List.replicate (minLen - 2) 0
  else if s.buf.length < minLen then s.buf
  else []

/-- The state whose next turn is the scanner's with the given scanner word. -/
def withScanWord (w : BitVec 19) (s : State) : State :=
  { s with buf := bufForScan w s, outValid := w.getLsbD 16,
           sched := { turn := .scanner, pins := Pins.idle } :: s.sched }

/-- A frame with the given decoder word: short; long without header; all-zero payload with the checksum off by one or right. -/
def frameForWord (w : BitVec 3) : List Byte :=
  if w.getLsbD 2 then []
  else if !w.getLsbD 1 then List.replicate minLen 0
  else if !w.getLsbD 0 then hdr0 :: hdr1 :: (List.replicate (minLen - 4) 0 ++ [0x81, 0x00])
  else hdr0 :: hdr1 :: (List.replicate (minLen - 4) 0 ++ [0x80, 0x00])

/-- The state whose next turn is a standalone Decode call on a frame with the given decoder word. -/
def withDecWord (w : BitVec 3) (s : State) : State :=
  { s with sched := { turn := .decoder (frameForWord w), pins := s.pins } :: s.sched }

/-- The state whose next step runs the operation of a word numbered as opcode_table.json numbers it. -/
def fetchSetup (nbits w : Nat) (s : State) : State :=
  match firstDecoding (tableBytes w) (tableGroups nbits) with
  | some (.input, _) => withPortWord .input (BitVec.ofNat 6 w) s
  | some (.output, _) => withPortWord .output (BitVec.ofNat 6 w) s
  | some (.scanner, _) => withScanWord (BitVec.ofNat 19 w) s
  | some (.decoder, _) => withDecWord (BitVec.ofNat 3 w) s
  | none => s

end Sys2Proof.Machine
end

