-- ==== Sys2Proof/Machine/Step.lean ====
section
/-! DEFINITION. One step of the framer: one agent's turn (R17), taken from the schedule (log 1). -/

namespace Sys2Proof.Machine

/-- R87: a configuration that is not admitted is refused. Otherwise the step begins (`beginStep`) and the turn is taken. -/
def step (s : State) : Host.Outcome State Fault Refusal :=
  if s.cfg.admitted then takeTurn (turnNow s) (beginStep s) else .refused .configNotAdmitted

/-- The state whose very next step runs the operation of a word of opcode_table.json (log 4). -/
def State.withFetchWord (s : State) (nbits w : Nat) : State := fetchSetup nbits w s

end Sys2Proof.Machine
end

