-- ==== Sys2Proof/Machine/Clock.lean ====
section
/-! DEFINITION. The clocked reference schedule (R245, 70_reset_and_hazards.md): one rising edge, written as the rule writes it,
and the turns of the atomic-step system that it amounts to (R17, R206). -/

namespace Sys2Proof.Machine

/-- R245: the scanner's part of an edge, on the buffer before the edge. -/
def edgeScan (s : State) : State :=
  match scanState s.cfg s.buf s.outValid with
  | .drop =>
    emit .drop { s with buf := s.buf.drop 1, consumed := s.consumed + 1, dropPulse := true }
  | .frame =>
    let s' := { s with buf := s.buf.drop (sliceLen s.cfg), consumed := s.consumed + sliceLen s.cfg }
    match decodeFrame s.cfg (s.buf.take (sliceLen s.cfg)) with
    | .ok r => presentRecord r s'
    | .err k => raiseDecodeError k s'
  | _ => s

/-- R245: one rising edge with the inputs `p` sampled. `acc` and `push` are computed from the state before the edge. -/
def clockEdge (p : Pins) (before : State) : State :=
  let s := tick { before with pins := p }
  let acc := s.outValid && p.outReady
  let push := p.inValid && decide (s.buf.length < s.cfg.depth)
  if p.rst then resetAll s
  else if p.cancel then
    let s' := bufEmpty s
    if acc then handOver s' else s'
  else
    let scanned := edgeScan s
    let accepted := if acc then handOver scanned else scanned
    if push then bufAppend p.inData accepted else accepted

/-- The turns of one edge: the scanner first, then the accept, then the push (R206); each port's turn only if its operation
is enabled before the edge. -/
def edgeTurns (p : Pins) (before : State) : List Turn :=
  let acc := before.outValid && p.outReady
  let push := p.inValid && decide (before.buf.length < before.cfg.depth)
  if p.rst then [.input]
  else if p.cancel then [.input] ++ (if acc then [.output] else [])
  else [.scanner] ++ (if acc then [.output] else []) ++ (if push then [.input] else [])

end Sys2Proof.Machine
end

