-- ==== Sys2Proof/Machine/Observe.lean ====
section
/-! DEFINITION. What is observed of a run (R18, 00_scope.md) and the reference event sequence of a byte stream (R132,
41_scanner.md). -/

namespace Sys2Proof.Machine

/-- R132: the event of a decoded frame. -/
def frameEvent (result : DecodeResult) : Event :=
  match result with
  | .ok r => .record r
  | .err k => .err k

/-- R132: `Events(s)` and `Res(s)`, as many events as `fuel` allows. -/
def referenceGo (c : Config) : Nat → List Byte → List Event × List Byte
  | 0, m => ([], m)
  | fuel + 1, m =>
    if m.length < minLen then ([], m)
    else if headerAt m then
      let rest := referenceGo c fuel (m.drop (sliceLen c))
      (frameEvent (decodeFrame c (m.take (sliceLen c))) :: rest.1, rest.2)
    else
      let rest := referenceGo c fuel (m.drop 1)
      (.drop :: rest.1, rest.2)

/-- R132: `Events(s)` and `Res(s)`; every event removes a byte, so `|s|` rounds are enough (R130). -/
def reference (c : Config) (m : List Byte) : List Event × List Byte := referenceGo c m.length m

/-- The scanner's events, `REC`, `ERR` and `DROP` (R185). -/
def isScanEvent (e : Event) : Bool :=
  match e with
  | .acc => false
  | _ => true

/-- R132: the scanner's events since the last reset or cancel. -/
def epochEvents (s : State) : List Event := (s.trace.drop s.epochStart).filter isScanEvent

/-- How many bytes the scanner removed with an event (R122, R125). -/
def eventBytes (c : Config) (e : Event) : Nat :=
  match e with
  | .drop => 1
  | .record _ => sliceLen c
  | .err _ => sliceLen c
  | .acc => 0

/-- R120: no scanner step is enabled in this buffer. -/
def scannerRests (s : State) : Bool :=
  match scanState s.cfg s.buf s.outValid with
  | .drop => false
  | .frame => false
  | _ => true

/-- R18: no agent has an enabled step with the inputs held. -/
def quiescent (s : State) : Bool :=
  !s.pins.rst && !s.pins.cancel && scannerRests s && !(s.pins.inValid && inReady s)
    && !(s.outValid && s.pins.outReady)

/-- R18(b): the observation at the end of a run; `out_rec` only while a record is presented (R182). -/
structure Observation where
  events : List Event
  buf : Memory
  presented : Option (BitVec 340)
deriving DecidableEq, Repr

/-- R18: what a program of this hardware shows. -/
def observe (s : State) : Observation :=
  { events := s.trace, buf := s.buf, presented := if s.outValid then some s.outRec else none }

end Sys2Proof.Machine
end

