-- ==== Sys2Proof/Machine/Script.lean ====
section
/-! DEFINITION. The stimulus scripts of R86 (30_encoding.md) as runs of `step`, with INGEST (R103) and DRAIN (R128). A script
leaves open how agents interleave; the order taken here is log 17. -/

namespace Sys2Proof.Machine

/-- R86: one condition of an EXPECT, on the observation (R18) or a status output. -/
inductive Condition where
  /-- The events since the last RESET. -/
  | events (es : List Event)
  | buf (bytes : List Byte)
  | bufLength (n : Nat)
  | outValid (level : Bool)
  /-- The presented record. -/
  | outRec (r : Record)
  | inReady (level : Bool)
deriving DecidableEq, Repr

/-- R86: the commands. -/
inductive Command where
  | config (c : Config)
  | reset
  | push (b : Byte)
  | ingest (bytes : List Byte)
  | scan
  | drain
  | sinkReady (level : Bool)
  | accept
  | cancel
  | expect (conditions : List Condition)
deriving DecidableEq, Repr

/-- The machine and what the script's source, sink and host remember between commands. -/
structure Bench where
  machine : State
  /-- R102: the bytes the source still has to offer. -/
  pending : List Byte
  /-- R86 ACCEPT: how many accepts have still to happen before `out_ready` goes back to 0. -/
  owed : Nat
  /-- R233: a RESET has been applied. -/
  started : Bool
  /-- The trace's length at the last RESET. -/
  resetMark : Nat
deriving DecidableEq, Repr

/-- Why a script stops. -/
inductive ScriptStop where
  /-- The machine faulted. Raised by `benchTurn`. Safe. -/
  | fault (e : Fault)
  /-- The machine, or CONFIG (R87), refused. Raised by `benchTurn` and `runCommand`. Safe. -/
  | refusal (e : Refusal)
  /-- R86: CONFIG "must precede RESET". Raised by `runCommand`. Safe. -/
  | configAfterReset
  /-- R233: "a model has no step" before the first RESET. Raised by `whenStarted`. Safe. -/
  | beforeReset
  /-- R86: an EXPECT does not hold. Raised by `runCommand`. Safe. -/
  | expectFailed
deriving DecidableEq, Repr

/-- An elaborated machine that no RESET has been applied to by the script. -/
def Bench.elaborated (c : Config) : Bench :=
  { machine := State.resetWith c, pending := [], owed := 0, started := false, resetMark := 0 }

/-- A machine in the middle of a script, with nothing pending. -/
def Bench.running (s : State) : Bench :=
  { machine := s, pending := [], owed := 0, started := true, resetMark := 0 }

/-- One step with the given turn and inputs; a stop of the machine stops the script. -/
def benchTurn (t : Turn) (p : Pins) (b : Bench) : Except ScriptStop Bench :=
  match step { b.machine with sched := { turn := t, pins := p } :: b.machine.sched } with
  | .next s => .ok { b with machine := s }
  | .fault e => .error (.fault e)
  | .refused e => .error (.refusal e)

/-- Idle inputs with `out_ready` at the level held. -/
def restPins (s : State) : Pins := { Pins.idle with outReady := s.pins.outReady }

/-- The inputs as a script leaves them between commands: idle, `out_ready` held. -/
def atRest (b : Bench) : Bench := { b with machine := { b.machine with pins := restPins b.machine } }

/-- `out_ready` held at a level, with as many accepts owed. -/
def holdSink (level : Bool) (owed : Nat) (b : Bench) : Bench :=
  { b with machine := { b.machine with pins := { Pins.idle with outReady := level } }, owed := owed }

/-- R86 ACCEPT: "until one ACCEPT happens, then SINK_READY 0". -/
def payAccept (b : Bench) : Bench :=
  match b.owed with
  | 0 => b
  | 1 => holdSink false 0 b
  | n + 2 => { b with owed := n + 1 }

/-- R86: with `SINK_READY 1` an ACCEPT follows each record at once. -/
def benchAccept (b : Bench) : Except ScriptStop Bench :=
  if b.machine.outValid && b.machine.pins.outReady then do
    let b' ← benchTurn .output (restPins b.machine) b
    return payAccept b'
  else return b

/-- R86 SCAN: one scanner step, if one is enabled. -/
def benchScan (b : Bench) : Except ScriptStop Bench :=
  if scannerRests b.machine then return b
  else do
    let b' ← benchTurn .scanner (restPins b.machine) b
    benchAccept b'

/-- R100, R102, R103: the source offers its next byte until it is taken; the scanner moves when the buffer is full. -/
def offerGo : Nat → Bench → Except ScriptStop Bench
  | 0, b => return b
  | fuel + 1, b =>
    match b.pending with
    | [] => return b
    | x :: xs =>
      if inReady b.machine then do
        let b' ← benchTurn .input { restPins b.machine with inValid := true, inData := x } b
        offerGo fuel (atRest { b' with pending := xs })
      else if scannerRests b.machine then return b
      else do
        let b' ← benchScan b
        offerGo fuel b'

/-- The source offers every byte it still has, as far as they are taken. A push leaves one byte fewer to offer and one more
to remove, a scanner step one fewer to remove, so the rounds are enough. -/
def settle (b : Bench) : Except ScriptStop Bench :=
  offerGo (2 * b.pending.length + b.machine.buf.length + 1) (atRest b)

/-- R103 INGEST, and R86 PUSH for one byte: the bytes join those the source still has to offer. -/
def benchIngest (bytes : List Byte) (b : Bench) : Except ScriptStop Bench :=
  settle { b with pending := b.pending ++ bytes }

/-- R128: scanner steps until none is enabled, or until `done`, the source going on meanwhile. -/
def scanGo (done : Bench → Bool) : Nat → Bench → Except ScriptStop Bench
  | 0, b => return b
  | fuel + 1, b => do
    let b' ← settle b
    if done b' || scannerRests b'.machine then return b'
    else
      let b'' ← benchScan b'
      scanGo done fuel b''

/-- A record presented to a ready sink is accepted, then `scanGo`; each round removes a byte, so the rounds are enough. -/
def scanUntil (done : Bench → Bool) (b : Bench) : Except ScriptStop Bench := do
  let b' ← benchAccept b
  scanGo done (b'.pending.length + b'.machine.buf.length + 1) b'

/-- R86 DRAIN. -/
def benchDrain (b : Bench) : Except ScriptStop Bench := scanUntil (fun _ => false) (atRest b)

/-- R86 ACCEPT: `SINK_READY 1` until one ACCEPT happens, then `SINK_READY 0`. The bytes still pending are offered and the
scanner moves meanwhile. Where no record can come yet, `out_ready` stays 1 and the accept stays owed. -/
def benchAcceptOne (b : Bench) : Except ScriptStop Bench :=
  scanUntil (fun b' => b'.owed == 0) (holdSink true (b.owed + 1) b)

/-- R86: whether a condition holds of the machine between commands. -/
def Condition.holds (b : Bench) : Condition → Bool
  | .events es => b.machine.trace.drop b.resetMark == es
  | .buf bytes => b.machine.buf == bytes
  | .bufLength n => b.machine.buf.length == n
  | .outValid level => b.machine.outValid == level
  | .outRec r => b.machine.outValid && b.machine.outRec == packRecord r
  | .inReady level => Machine.inReady (atRest b).machine == level

/-- R233: no command but CONFIG and RESET before the first RESET. -/
def whenStarted (b : Bench) (run : Except ScriptStop Bench) : Except ScriptStop Bench :=
  if b.started then run else .error .beforeReset

/-- R86: what a command does. After each, the source has offered what it still has. -/
def runCommand (cmd : Command) (b : Bench) : Except ScriptStop Bench :=
  match cmd with
  | .config c =>
    if b.started then .error .configAfterReset
    else if c.admitted then return Bench.elaborated c
    else .error (.refusal .configNotAdmitted)
  | .reset => do
    let b' ← benchTurn .input { restPins b.machine with rst := true } b
    settle (holdSink true 0 { b' with started := true, resetMark := b'.machine.trace.length })
  | .push x => whenStarted b (benchIngest [x] b)
  | .ingest xs => whenStarted b (benchIngest xs b)
  | .scan => whenStarted b do
    let b' ← benchScan (atRest b)
    settle b'
  | .drain => whenStarted b (benchDrain b)
  | .sinkReady level => whenStarted b do
    let b' ← benchAccept (holdSink level 0 b)
    settle b'
  | .accept => whenStarted b (benchAcceptOne b)
  | .cancel => whenStarted b do
    let b' ← benchTurn .input { restPins b.machine with cancel := true } b
    settle b'
  | .expect cs => whenStarted b (if cs.all (Condition.holds b) then return b else .error .expectFailed)

/-- A script's commands in order; the first stop ends it. -/
def runCommands : List Command → Bench → Except ScriptStop Bench
  | [], b => return b
  | cmd :: cmds, b => do
    let b' ← runCommand cmd b
    runCommands cmds b'

/-- A script; without a CONFIG it runs the reference configuration. -/
def runScript (cmds : List Command) : Except ScriptStop Bench := runCommands cmds (Bench.elaborated Config.reference)

end Sys2Proof.Machine
end

