-- ==== Sys2Proof/Safety.lean ====
section
/-! DEFINITION. What holds of a good state, in the terms the claims use. -/

namespace Sys2Proof

open Sys2Proof.Machine

/-- R24, R84(a): `err_code` is 00 exactly while `err_valid = 0`. -/
def PulsesLegal (s : State) : Prop := (s.errCode = 0 ↔ s.errValid = false)

/-- R23, R84(b), R84(c): a presented bus value carries a record with 11 or 12 points and zeros in the slots after them. -/
def OutputLegal (s : State) : Prop :=
  s.outValid = true → ∃ r : Record, r.wf = true ∧ s.outRec = packRecord r

/-- R51, R52: the buffer is the end of the stream pushed since the last reset or cancel, in order, nothing missing. -/
def FifoOrder (s : State) : Prop := ∃ gone : List Byte, s.stream = gone ++ s.buf

/-- The mark of the last reset or cancel lies in the trace. -/
def EpochInTrace (s : State) : Prop := s.epochStart ≤ s.trace.length

/-- The invariant of the machine. -/
structure Inv (s : State) : Prop where
  admitted : s.cfg.admitted = true
  memory : s.buf.wf s.cfg.depth = true
  pulses : PulsesLegal s
  output : OutputLegal s
  fifo : FifoOrder s
  epoch : EpochInTrace s

/-- R132: the events since the last reset or cancel, followed by the reference events of what is still buffered, are the
reference events of the whole stream; and the two leave the same residue. -/
def EventsFollowReference (s : State) : Prop :=
  reference s.cfg s.stream =
    (epochEvents s ++ (reference s.cfg s.buf).1, (reference s.cfg s.buf).2)

/-- R130: every byte of the stream that is no longer buffered was removed with a scanner event. -/
def BytesAccounted (s : State) : Prop :=
  ((epochEvents s).map (eventBytes s.cfg)).sum + s.buf.length = s.stream.length

/-- A step that neither faults nor refuses. -/
def StepCompletes (s : State) : Prop := ∃ t, step s = .next t

end Sys2Proof
end

