-- ==== Sys2Proof/Certificates/Slice0/Obligations.lean ====
section
/-! DEFINITION. The statements for the provers. Each is a proposition about the model; none is proved here. An equation
`exec i s = .next { s with … }` says the result, the frame (every field not named keeps its value) and that the operation
completes. -/

open Sys2Proof Sys2Proof.Machine

/-! ## Reset, cancel and the input port -/

/-- R230, for every sampled word of the row: with `rst = 1`, RESET completes; the fields named take the reset values, every
other field keeps its own, the configuration and the trace among them. `outRec` takes a free value of which nothing is
known. The ghost fields `consumed`, `stream` and `epochStart` follow R28 and R132. -/
def Obligations.ResetSetsEveryElement : Prop :=
  ∀ (s : State) (c v r ov o : Bool), s.pins.rst = true →
    exec (.reset c v r ov o) s = .next
      { s with
        buf := [], outValid := false, errValid := false, errCode := 0b00, dropPulse := false
        outRec := Config.freeOutRec s.draws, draws := s.draws + 1
        consumed := s.consumed + s.buf.length, stream := [], epochStart := s.trace.length }

/-- R35, R36, R38, R39: the values after reset, in `State.resetWith` and after the RESET operation, in every configuration and
from every state. -/
def Obligations.ResetValues : Prop :=
  (∀ c : Config,
    (State.resetWith c).buf = [] ∧ (State.resetWith c).outValid = false ∧ (State.resetWith c).errValid = false ∧
      (State.resetWith c).errCode = 0b00 ∧ (State.resetWith c).dropPulse = false) ∧
  ∀ s : State, s.pins.rst = true → ∀ c v r ov o : Bool,
    ∃ t, exec (.reset c v r ov o) s = .next t ∧
      t.buf = [] ∧ t.outValid = false ∧ t.errValid = false ∧ t.errCode = 0b00 ∧ t.dropPulse = false

/-- R104: with `rst = 0` and `cancel = 1`, CANCEL completes: the buffer is emptied, no pulse follows, no event is emitted,
`outValid` and `outRec` keep their values. -/
def Obligations.CancelEmptiesOnlyTheBuffer : Prop :=
  ∀ (s : State) (v r ov o : Bool), s.pins.rst = false → s.pins.cancel = true →
    exec (.cancel v r ov o) s = .next
      { s with
        buf := [], errValid := false, errCode := 0b00, dropPulse := false
        consumed := s.consumed + s.buf.length, stream := [], epochStart := s.trace.length }

/-- R100: a byte offered with `rst = 0`, `cancel = 0` and room in the buffer selects PUSH with that byte, and PUSH completes and
appends it; nothing else of the hardware changes. -/
def Obligations.PushAppendsTheOfferedByte : Prop :=
  ∀ s : State, s.pins.rst = false → s.pins.cancel = false → s.pins.inValid = true → s.buf.length < s.cfg.depth →
    select .input s = some (.push s.outValid s.pins.outReady s.pins.inData) ∧
    ∀ (ov o : Bool) (b : Byte),
      exec (.push ov o b) s = .next { s with buf := s.buf ++ [b], stream := s.stream ++ [b] }

/-- R102: a byte offered while the buffer is full selects IN_STALL (`in_ready = 0`), and IN_STALL, in every state, completes
and changes nothing. -/
def Obligations.FullBufferStallsTheSource : Prop :=
  (∀ s : State, s.pins.rst = false → s.pins.cancel = false → s.pins.inValid = true → s.cfg.depth ≤ s.buf.length →
    inReady s = false ∧ select .input s = some (.inStall s.outValid s.pins.outReady s.pins.inData)) ∧
  ∀ (s : State) (ov o : Bool) (b : Byte), exec (.inStall ov o b) s = .next s

/-- R26, R101: `in_ready` is 1 exactly when `rst = 0`, `cancel = 0` and `|buf| < DEPTH`. -/
def Obligations.InReadyFollowsRoom : Prop :=
  ∀ s : State,
    inReady s = true ↔ (s.pins.rst = false ∧ s.pins.cancel = false ∧ s.buf.length < s.cfg.depth)

/-! ## The output port -/

/-- R180: with `rst = 0`, a presented record and a ready sink, ACCEPT completes, whatever `cancel` is: the sink receives the
bus value, `out_valid` becomes 0, the event is ACC, and the bus value becomes free. -/
def Obligations.AcceptHandsTheRecordOver : Prop :=
  ∀ (s : State) (c v r : Bool), s.pins.rst = false → s.outValid = true → s.pins.outReady = true →
    exec (.accept c v r) s = .next
      { s with
        outValid := false, received := s.received ++ [s.outRec], trace := s.trace ++ [.acc]
        outRec := Config.freeOutRec s.draws, draws := s.draws + 1 }

/-- R181: a presented record and a sink that is not ready select OUT_STALL, and OUT_STALL, in every state, completes and
changes nothing. -/
def Obligations.StalledSinkChangesNothing : Prop :=
  (∀ s : State, s.pins.rst = false → s.outValid = true → s.pins.outReady = false →
    select .output s = some (.outStall s.pins.cancel s.pins.inValid (inReady s))) ∧
  ∀ (s : State) (c v r : Bool), exec (.outStall c v r) s = .next s

/-- R181, R187: along every step a presented record stays presented, bit for bit, unless the sink accepts it (and then it
receives exactly that value) or a reset is applied. -/
def Obligations.PresentedRecordStaysUntilAccepted : Prop :=
  ∀ s t : State, step s = .next t → s.outValid = true →
    (t.outValid = true ∧ t.outRec = s.outRec) ∨
    (t.outValid = false ∧ t.trace = s.trace ++ [.acc] ∧ t.received = s.received ++ [s.outRec]) ∨
    (beginStep s).pins.rst = true

/-- R23, R182: while no record is presented the bus value has no influence on any step. -/
def Obligations.UnpresentedBusValueIsUnobserved : Prop :=
  ∀ (s : State) (v : BitVec 340), s.outValid = false → step { s with outRec := v } = step s

/-! ## The scanner -/

/-- R121, R123, R124: the three waiting rows complete in every state and change nothing. -/
def Obligations.WaitingScannerChangesNothing : Prop :=
  ∀ s : State,
    (∀ (l o : Bool) (b0 b1 : Byte), exec (.scanWaitMin l o b0 b1) s = .next s) ∧
    (∀ o : Bool, exec (.scanWaitLen o) s = .next s) ∧
    exec .scanHoldOut s = .next s

/-- R122: with 47 bytes held and no header at the front, DROP completes: exactly one byte is removed, `drop_pulse` is set, the
event is DROP; whatever `out_valid` is. -/
def Obligations.DropRemovesOneByte : Prop :=
  ∀ (s : State) (l o : Bool) (b0 b1 : Byte), s.pins.rst = false → s.pins.cancel = false →
    minLen ≤ s.buf.length → headerAt s.buf = false →
    exec (.scanDrop l o b0 b1) s = .next
      { s with
        buf := s.buf.drop 1, consumed := s.consumed + 1, dropPulse := true, trace := s.trace ++ [.drop] }

/-- R125, R126: at a header with 47 bytes held and a free output, FRAME completes; when the slice decodes to a record, its
`L` bytes are removed and the record is presented. -/
def Obligations.GoodFrameIsPresented : Prop :=
  ∀ (s : State) (r : Record), s.pins.rst = false → s.pins.cancel = false → s.outValid = false →
    minLen ≤ s.buf.length → headerAt s.buf = true →
    decodeFrame s.cfg (s.buf.take (sliceLen s.cfg)) = .ok r →
    exec .scanFrame s = .next
      { s with
        buf := s.buf.drop (sliceLen s.cfg), consumed := s.consumed + sliceLen s.cfg
        outValid := true, outRec := packRecord r, trace := s.trace ++ [.record r] }

/-- R125, R127, R207: when the slice fails to decode, its `L` bytes are removed all the same, the error is reported with its
code, and nothing else happens. -/
def Obligations.BadFrameIsReported : Prop :=
  ∀ (s : State) (k : ErrKind), s.pins.rst = false → s.pins.cancel = false → s.outValid = false →
    minLen ≤ s.buf.length → headerAt s.buf = true →
    decodeFrame s.cfg (s.buf.take (sliceLen s.cfg)) = .err k →
    exec .scanFrame s = .next
      { s with
        buf := s.buf.drop (sliceLen s.cfg), consumed := s.consumed + sliceLen s.cfg
        errValid := true, errCode := errKindCode k, trace := s.trace ++ [.err k] }

/-- R65: where no scanner step is enabled, at most 46 bytes are held, or a complete candidate frame waits for the output;
WAIT_LEN is no stopping point. -/
def Obligations.RestingScannerHoldsLittle : Prop :=
  ∀ s : State, scannerRests s = true →
    (s.buf.length ≤ minLen - 1 ∨
      (headerAt s.buf = true ∧ sliceLen s.cfg ≤ s.buf.length ∧ s.outValid = true)) ∧
    scanState s.cfg s.buf s.outValid ≠ .waitLen

/-- R123: SCAN_WAIT_LEN is selected in no state, and where it is executed nothing changes. -/
def Obligations.WaitLenIsNeverSelected : Prop :=
  ∀ (s : State) (o : Bool), select .scanner s ≠ some (.scanWaitLen o) ∧ exec (.scanWaitLen o) s = .next s

/-- R134: in the literal configuration every FRAME slices 44 bytes and reports TooShort, and no step emits a record. -/
def Obligations.LiteralConfigurationEmitsNoRecord : Prop :=
  (∀ s : State, s.cfg.lenFromByte1 = true → s.pins.rst = false → s.pins.cancel = false → s.outValid = false →
    minLen ≤ s.buf.length → headerAt s.buf = true →
    exec .scanFrame s = .next
      { s with
        buf := s.buf.drop 44, consumed := s.consumed + 44
        errValid := true, errCode := 0b01, trace := s.trace ++ [.err .tooShort] }) ∧
  ∀ (s t : State) (r : Record), s.cfg.lenFromByte1 = true → step s = .next t → t.trace ≠ s.trace ++ [.record r]

/-- R169: inside the block the conforming configuration gives only records and ChecksumMismatch, the literal one only
TooShort, and BadHeader never occurs; standalone, BadHeader does occur. -/
def Obligations.OutcomesInsideTheBlock : Prop :=
  (∀ (s t : State) (e : Event), step s = .next t → t.trace = s.trace ++ [e] →
    e ≠ .err .badHeader ∧
    (s.cfg.lenFromByte1 = false → e ≠ .err .tooShort) ∧
    (s.cfg.lenFromByte1 = true → e ≠ .err .checksumMismatch ∧ ∀ r, e ≠ .record r)) ∧
  ∀ c : Config, ∃ f, decodeFrame c f = .err .badHeader

/-! ## The decoder -/

/-- R151, R152, R161, R162: each decoder row, selected by its frame, completes and returns the outcome of Decode; its execution
leaves the state of the block untouched. The frame is the argument `decIn` of a standalone call, the model's own field (log 8). -/
def Obligations.StandaloneDecodeRowsReturn : Prop :=
  (∀ (s : State) (h c : Bool), s.decIn.length < minLen →
    exec (.decTooShort h c) s = .next { s with decOut := some (.err .tooShort) }) ∧
  (∀ (s : State) (c : Bool), minLen ≤ s.decIn.length → headerAt s.decIn = false →
    exec (.decBadHeader c) s = .next { s with decOut := some (.err .badHeader) }) ∧
  (∀ s : State, minLen ≤ s.decIn.length → headerAt s.decIn = true → checksumCalc s.decIn ≠ checksumField s.decIn →
    exec .decCksumMismatch s = .next { s with decOut := some (.err .checksumMismatch) }) ∧
  (∀ s : State, minLen ≤ s.decIn.length → headerAt s.decIn = true → checksumCalc s.decIn = checksumField s.decIn →
    exec .decOk s = .next { s with decOut := some (.ok (parseRecord s.cfg s.decIn)) })

/-- R150, R83: the row that the decoder word of a frame selects returns what Decode returns. -/
def Obligations.SelectedRowReturnsDecode : Prop :=
  ∀ s : State,
    exec (decodeDecoder (decWord s.decIn)) s = .next { s with decOut := some (decodeFrame s.cfg s.decIn) }

/-- R205: Decode reports the first defect in the order length, header, checksum, and a record exactly when there is none. -/
def Obligations.DecodeReportsTheFirstDefect : Prop :=
  ∀ (c : Config) (f : List Byte),
    (decodeFrame c f = .err .tooShort ↔ f.length < minLen) ∧
    (decodeFrame c f = .err .badHeader ↔
      minLen ≤ f.length ∧ ¬ (byteAt f 0 = hdr0 ∧ byteAt f 1 = hdr1)) ∧
    (decodeFrame c f = .err .checksumMismatch ↔
      minLen ≤ f.length ∧ (byteAt f 0 = hdr0 ∧ byteAt f 1 = hdr1) ∧ checksumCalc f ≠ checksumField f) ∧
    ((∃ r, decodeFrame c f = .ok r) ↔
      minLen ≤ f.length ∧ (byteAt f 0 = hdr0 ∧ byteAt f 1 = hdr1) ∧ checksumCalc f = checksumField f)

/-- R154, R155, R156, R158, R159: the fields of a decoded record, from the bytes of the frame, the end angle from the slice's
own end. -/
def Obligations.DecodedFieldsComeFromTheFrame : Prop :=
  ∀ (c : Config) (f : List Byte) (r : Record), decodeFrame c f = .ok r →
    r.speedRaw.toNat = (byteAt f 2).toNat + 256 * (byteAt f 3).toNat ∧
    r.startRaw.toNat = (byteAt f 4).toNat + 256 * (byteAt f 5).toNat ∧
    r.endRaw.toNat = (byteAt f (f.length - 4)).toNat + 256 * (byteAt f (f.length - 3)).toNat ∧
    r.npts.toNat = (if c.lenFromByte1 then 11 else 12) ∧
    r.points.length = r.npts.toNat ∧
    ∀ i, i < r.npts.toNat → ∃ p, r.points[i]? = some p ∧
      p.distRaw.toNat = (byteAt f (6 + 3 * i)).toNat + 256 * (byteAt f (7 + 3 * i)).toNat ∧
      p.inten = byteAt f (8 + 3 * i)

/-- R71, R150, R166: the wire frame of any 12-point record, with any spare bytes and any field values, decodes to that record.
This is the document's round-trip property (95_test_vectors.md L1.4) for every record. -/
def Obligations.FrameDecodesToItsRecord : Prop :=
  ∀ (c : Config) (r : Record) (spare : List Byte), c.lenFromByte1 = false → r.npts = 12 → r.points.length = 12 →
    spare ≠ [] → decodeFrame c (encodeFrame r spare) = .ok r

/-- R71, R75, R76: a 47-byte frame that decodes is the wire frame of its record and its spare byte: no byte is left out. -/
def Obligations.AcceptedFrameIsItsRecordsEncoding : Prop :=
  ∀ (c : Config) (f : List Byte) (r : Record), c.lenFromByte1 = false → f.length = minLen →
    decodeFrame c f = .ok r → encodeFrame r [byteAt f 42] = f

/-- R161(a): any change of the checksum field alone gives ChecksumMismatch. -/
def Obligations.ChecksumFieldChangeIsDetected : Prop :=
  ∀ (c : Config) (f : List Byte) (r : Record) (x y : Byte), decodeFrame c f = .ok r →
    f.take (f.length - 2) ++ [x, y] ≠ f →
    decodeFrame c (f.take (f.length - 2) ++ [x, y]) = .err .checksumMismatch

/-- R161(b): a change of one byte between the header and the checksum field gives ChecksumMismatch. -/
def Obligations.PayloadByteChangeIsDetected : Prop :=
  ∀ (c : Config) (f : List Byte) (r : Record) (k : Nat) (b : Byte), decodeFrame c f = .ok r →
    2 ≤ k → k < f.length - 2 → b ≠ byteAt f k →
    decodeFrame c (f.set k b) = .err .checksumMismatch

/-- R161(c): swapping two bytes inside the summed range, the header left alone, is never detected. -/
def Obligations.ByteSwapIsNotDetected : Prop :=
  ∀ (c : Config) (f : List Byte) (r : Record) (i j : Nat), decodeFrame c f = .ok r →
    2 ≤ i → i < f.length - 2 → 2 ≤ j → j < f.length - 2 →
    ∃ r', decodeFrame c ((f.set i (byteAt f j)).set j (byteAt f i)) = .ok r'

/-- R164(b): a 16-bit register that wraps on each addition holds the exact sum modulo 65536. -/
def Obligations.WrappingAccumulatorAgrees : Prop :=
  ∀ f : List Byte, checksumAccumulate f = checksumCalc f

/-- R160(b): in a 47-byte frame the truncation never changes the sum. -/
def Obligations.SumOfABlockFrameDoesNotWrap : Prop :=
  ∀ f : List Byte, f.length = minLen → (checksumCalc f).toNat = byteSum (f.take 45)

/-! ## The output bus and the scaled values -/

/-- R78: where the fields of a record stand on the bus. A point slot at or beyond `npts` is 0 (R79). -/
def Obligations.BusLayout : Prop :=
  ∀ r : Record,
    (packRecord r).extractLsb' 0 16 = r.speedRaw ∧
    (packRecord r).extractLsb' 16 16 = r.startRaw ∧
    (packRecord r).extractLsb' 32 16 = r.endRaw ∧
    (packRecord r).extractLsb' 48 4 = r.npts ∧
    ∀ i, i < nptsMax →
      (∀ p, i < r.npts.toNat → r.points[i]? = some p →
        (packRecord r).extractLsb' (52 + 24 * i) 16 = p.distRaw ∧
        (packRecord r).extractLsb' (52 + 24 * i + 16) 8 = p.inten) ∧
      (r.npts.toNat ≤ i →
        (packRecord r).extractLsb' (52 + 24 * i) 16 = 0 ∧
        (packRecord r).extractLsb' (52 + 24 * i + 16) 8 = 0)

/-- R78: the bus value of a legal record carries all of it. -/
def Obligations.BusValueCarriesTheRecord : Prop :=
  ∀ r : Record, r.wf = true → unpackRecord (packRecord r) = r

/-- R74(a) to (c): the ranges of the physical values. -/
def Obligations.ScaledValuesStayInRange : Prop :=
  (∀ r : Record,
    (0 ≤ r.speed ∧ r.speed ≤ 65535 / 100) ∧ (0 ≤ r.startAngle ∧ r.startAngle ≤ 65535 / 100) ∧
      (0 ≤ r.endAngle ∧ r.endAngle ≤ 65535 / 100)) ∧
  ∀ p : Point, 0 ≤ p.distance ∧ p.distance ≤ 65535 / 1000

/-! ## Selection words, decoding and the step -/

/-- R81: the operation each port group selects, in every state; RESET overrides the scanner too. -/
def Obligations.PortWordSelectsItsRows : Prop :=
  ∀ s : State,
    select .input s =
      (if s.pins.rst then some (.reset s.pins.cancel s.pins.inValid (inReady s) s.outValid s.pins.outReady)
       else if s.pins.cancel then some (.cancel s.pins.inValid (inReady s) s.outValid s.pins.outReady)
       else if s.pins.inValid then
         (if s.buf.length < s.cfg.depth then some (.push s.outValid s.pins.outReady s.pins.inData)
          else some (.inStall s.outValid s.pins.outReady s.pins.inData))
       else none) ∧
    select .output s =
      (if s.pins.rst then some (.reset s.pins.cancel s.pins.inValid (inReady s) s.outValid s.pins.outReady)
       else if s.outValid then
         (if s.pins.outReady then some (.accept s.pins.cancel s.pins.inValid (inReady s))
          else some (.outStall s.pins.cancel s.pins.inValid (inReady s)))
       else none) ∧
    (s.pins.rst = true →
      select .scanner s = some (.reset s.pins.cancel s.pins.inValid (inReady s) s.outValid s.pins.outReady))

/-- R82: the scanner word selects the row of `scan_state` (R29), and no row while `cancel = 1`. -/
def Obligations.ScannerWordSelectsScanState : Prop :=
  ∀ s : State, s.pins.rst = false →
    (s.pins.cancel = true → select .scanner s = none) ∧
    (s.pins.cancel = false → select .scanner s = some
      (match scanState s.cfg s.buf s.outValid with
       | .waitMin => .scanWaitMin false s.outValid 0 0
       | .waitLen => .scanWaitLen s.outValid
       | .holdOut => .scanHoldOut
       | .frame => .scanFrame
       | .drop => .scanDrop (geLen s.cfg s.buf) s.outValid (byteAt s.buf 0) (byteAt s.buf 1)))

/-- R83: the decoder word's rows. -/
def Obligations.DecoderWordSelectsItsRows : Prop :=
  ∀ f : List Byte,
    decodeDecoder (decWord f) =
      (if f.length < minLen then .decTooShort false false
       else if ¬ (byteAt f 0 = hdr0 ∧ byteAt f 1 = hdr1) then .decBadHeader false
       else if checksumCalc f ≠ checksumField f then .decCksumMismatch
       else .decOk)

/-- Every well-formed operation, with every value of its free bits and its operand, is what its bytes decode to. -/
def Obligations.EncodedOperationDecodesToItself : Prop :=
  ∀ i : Instr, i.wf = true → decodeBytes i.group (encode i) = .ok (i, [])

/-- What decodes is well formed, and its bytes are the ones decoded: no bit of a selection word is dropped. -/
def Obligations.DecodedBytesEncodeBack : Prop :=
  ∀ (g : OpGroup) (bs rest : List Byte) (i : Instr), decodeBytes g bs = .ok (i, rest) →
    i.wf = true ∧ encode i ++ rest = bs

/-- A few words of opcode_table.json, as the table writes their match values, decode to their rows. The widths in whole bytes,
the byte layout and the choice of ACCEPT for the 8-bit word 0x03, which is the match value of DEC_OK too, are the model's
(logs 10 and 11). -/
def Obligations.TableWordsDecodeToTheirRows : Prop :=
  decodeTableWord 8 0x20 = some (.reset false false false false false) ∧
  decodeTableWord 8 0x0C = some (.push false false 0) ∧
  decodeTableWord 8 0x03 = some (.accept false false false) ∧
  decodeTableWord 24 0x7542C = some .scanHoldOut ∧
  decodeTableWord 24 0x6542C = some .scanFrame ∧
  decodeTableWord 3 0x2 = some .decCksumMismatch

/-- A step, in an admitted configuration, is the selected operation executed in the begun state, and the selected operation is
well formed; where none is selected nothing more happens. The begun state takes the slot's inputs and keeps the buffer, the
presented record and the trace. That it ends the pulses, whichever turn is taken, is the model's reading of R24 and R25
(log 7); the schedule is the model's own (log 1). -/
def Obligations.StepRunsTheSelectedOperation : Prop :=
  ∀ s : State, s.cfg.admitted = true →
    (∀ i, select (turnNow s) (beginStep s) = some i → i.wf = true ∧ step s = exec i (beginStep s)) ∧
    (select (turnNow s) (beginStep s) = none → step s = .next (beginStep s)) ∧
    (beginStep s).buf = s.buf ∧ (beginStep s).cfg = s.cfg ∧ (beginStep s).trace = s.trace ∧
    (beginStep s).outValid = s.outValid ∧ (s.outValid = true → (beginStep s).outRec = s.outRec) ∧
    (beginStep s).errValid = false ∧ (beginStep s).errCode = 0b00 ∧ (beginStep s).dropPulse = false ∧
    (beginStep s).sched = s.sched.tail ∧
    ∀ slot rest, s.sched = slot :: rest → (beginStep s).pins = slot.pins ∧ turnNow s = slot.turn

/-- R87: a configuration with `DEPTH < 47` is refused, and no other. -/
def Obligations.SmallDepthIsRefused : Prop :=
  ∀ s : State, step s = .refused .configNotAdmitted ↔ s.cfg.depth < 47

/-- R53, R209: in an admitted configuration every step answers a next state: no buffer read is out of range and nothing stops
the framer. -/
def Obligations.EveryStepCompletes : Prop :=
  ∀ s : State, s.cfg.admitted = true → StepCompletes s

/-! ## Frames -/

/-- What each operation may change, of every state element (R100, R104, R122, R126, R127, R180, R230). -/
def Obligations.OperationsChangeOnlyTheirElements : Prop :=
  ∀ (i : Instr) (s t : State), exec i s = .next t →
    t.cfg = s.cfg ∧ t.pins = s.pins ∧ t.decIn = s.decIn ∧ t.sched = s.sched ∧
    (match i with
     | .reset _ _ _ _ _ => t.trace = s.trace ∧ t.received = s.received ∧ t.decOut = s.decOut
     | .cancel _ _ _ _ =>
       t.outValid = s.outValid ∧ t.outRec = s.outRec ∧ t.trace = s.trace ∧ t.received = s.received ∧
         t.decOut = s.decOut
     | .push _ _ _ =>
       t.outValid = s.outValid ∧ t.outRec = s.outRec ∧ t.errValid = s.errValid ∧ t.errCode = s.errCode ∧
         t.dropPulse = s.dropPulse ∧ t.trace = s.trace ∧ t.received = s.received ∧ t.decOut = s.decOut
     | .accept _ _ _ =>
       t.buf = s.buf ∧ t.errValid = s.errValid ∧ t.errCode = s.errCode ∧ t.dropPulse = s.dropPulse ∧
         t.decOut = s.decOut
     | .scanDrop _ _ _ _ =>
       t.outValid = s.outValid ∧ t.outRec = s.outRec ∧ t.errValid = s.errValid ∧ t.errCode = s.errCode ∧
         t.received = s.received ∧ t.decOut = s.decOut
     | .scanFrame => t.dropPulse = s.dropPulse ∧ t.received = s.received ∧ t.decOut = s.decOut
     | .decTooShort _ _ | .decBadHeader _ | .decCksumMismatch | .decOk => t = { s with decOut := t.decOut }
     | _ => t = s)

/-- R50 to R52: what each operation does to every byte of the buffer, through the read of one byte. PUSH writes at the offset
`|buf|` only; DROP moves every byte down by one and FRAME by `L`, or they change nothing; RESET and CANCEL leave no byte, or
change nothing; every other operation leaves every byte. -/
def Obligations.OperationsOnTheBufferBytes : Prop :=
  ∀ (i : Instr) (s t : State), exec i s = .next t →
    (match i with
     | .push _ _ b =>
       (∀ k, k ≠ s.buf.length → t.buf.read k = s.buf.read k) ∧
         (t.buf.read s.buf.length = some b ∨ t.buf.read s.buf.length = none)
     | .scanDrop _ _ _ _ => (∀ k, t.buf.read k = s.buf.read (k + 1)) ∨ (∀ k, t.buf.read k = s.buf.read k)
     | .scanFrame =>
       (∀ k, t.buf.read k = s.buf.read (k + sliceLen s.cfg)) ∨ (∀ k, t.buf.read k = s.buf.read k)
     | .reset _ _ _ _ _ | .cancel _ _ _ _ =>
       (∀ k, t.buf.read k = none) ∨ (∀ k, t.buf.read k = s.buf.read k)
     | _ => ∀ k, t.buf.read k = s.buf.read k)

/-- The model's reading of a disabled operation (log 9): where the enabling condition of its pseudocode does not hold, nothing
changes. -/
def Obligations.DisabledOperationsChangeNothing : Prop :=
  ∀ s : State,
    (s.pins.rst = false → ∀ c v r ov o, exec (.reset c v r ov o) s = .next s) ∧
    ((s.pins.rst = true ∨ s.pins.cancel = false) → ∀ v r ov o, exec (.cancel v r ov o) s = .next s) ∧
    ((s.pins.inValid = false ∨ inReady s = false) → ∀ ov o b, exec (.push ov o b) s = .next s) ∧
    ((s.pins.rst = true ∨ s.outValid = false ∨ s.pins.outReady = false) →
      ∀ c v r, exec (.accept c v r) s = .next s) ∧
    ((s.pins.rst = true ∨ s.pins.cancel = true ∨ s.buf.length < minLen ∨ headerAt s.buf = true) →
      ∀ l o b0 b1, exec (.scanDrop l o b0 b1) s = .next s) ∧
    ((s.pins.rst = true ∨ s.pins.cancel = true ∨ s.buf.length < minLen ∨ headerAt s.buf = false ∨
        s.outValid = true) → exec .scanFrame s = .next s)

/-! ## Invariants and whole-machine rules -/

/-- The invariant holds after reset, in every admitted configuration. -/
def Obligations.InvHoldsAfterReset : Prop :=
  Inv State.reset ∧ ∀ c : Config, c.admitted = true → Inv (State.resetWith c)

/-- R33, R84, R51, R52: the invariant is kept by every step: the buffer keeps its form and its capacity, `err_code` is 00
exactly without an error, a presented bus value is a legal record, and the buffer is the end of the stream pushed. -/
def Obligations.EveryStepKeepsInv : Prop :=
  ∀ s t : State, Inv s → step s = .next t → Inv t

/-- R33: the buffer never exceeds its capacity: after reset it is empty, a step appends one byte only when `in_ready = 1`, and
every other step only removes bytes from the front. -/
def Obligations.BufferStaysWithinDepth : Prop :=
  State.reset.buf.length ≤ State.reset.cfg.depth ∧
  ∀ s t : State, step s = .next t →
    ((∃ b, t.buf = s.buf ++ [b] ∧ inReady (beginStep s) = true) ∨ ∃ n, t.buf = s.buf.drop n) ∧
    (s.buf.length ≤ s.cfg.depth → t.buf.length ≤ t.cfg.depth)

/-- R132 at the start: nothing pushed, nothing emitted. -/
def Obligations.EventsFollowReferenceAfterReset : Prop :=
  ∀ c : Config, EventsFollowReference (State.resetWith c)

/-- R132, step by step, from every state: the events emitted since the last reset or cancel and those still to come from the
buffer are the reference events of the stream. -/
def Obligations.EveryStepKeepsEventsOnReference : Prop :=
  ∀ s t : State, EpochInTrace s → EventsFollowReference s → step s = .next t → EventsFollowReference t

/-- R132, chunk invariance: in every run, however the schedule interleaves the agents and splits the input, the events since
the last reset or cancel are an initial part of `Events` of the bytes pushed since; where the scanner rests with a free
output they are all of it, and the buffer is the residue. The schedule is the model's own (log 1), and so are the fields
`stream` and `epochStart` that say which bytes and events these are (log 14). -/
def Obligations.RunsEmitTheReferenceEvents : Prop :=
  ∀ (c : Config) (l : List Slot) (k : Nat) (t : State), c.admitted = true →
    Host.Core.run Sys2Proof.core k { State.resetWith c with sched := l } = .next t →
    epochEvents t <+: (reference c t.stream).1 ∧
    (scannerRests t = true → t.outValid = false →
      epochEvents t = (reference c t.stream).1 ∧ t.buf = (reference c t.stream).2)

/-- R130: every step keeps the account of the bytes: those removed with an event and those still held make up the stream. -/
def Obligations.EveryStepKeepsBytesAccounted : Prop :=
  ∀ s t : State, EpochInTrace s → BytesAccounted s → step s = .next t → BytesAccounted t

/-- R130: a stream of `m` equal bytes other than `HDR0`, all zeros or all `0xFF` among them, gives exactly `max(0, m - 46)`
DROP events and leaves the rest. -/
def Obligations.JunkStreamIsDroppedTo46 : Prop :=
  ∀ (c : Config) (m : Nat) (b : Byte), b ≠ hdr0 →
    reference c (List.replicate m b) = (List.replicate (m - 46) .drop, List.replicate (min m 46) b)

/-- R122, R125, R132 (the document's resynchronisation property, 95_test_vectors.md L1.5): junk in which no header starts,
then a wire frame, gives one DROP per junk byte and then the frame's record, and leaves nothing. -/
def Obligations.ScannerResynchronisesAfterJunk : Prop :=
  ∀ (c : Config) (junk : List Byte) (r : Record) (spare : Byte), c.lenFromByte1 = false → r.npts = 12 →
    r.points.length = 12 →
    (∀ k, k < junk.length → headerAt ((junk ++ encodeFrame r [spare]).drop k) = false) →
    reference c (junk ++ encodeFrame r [spare]) = (List.replicate junk.length .drop ++ [.record r], [])

/-- R24, R25, with "one step" read as the next step of any turn (log 7): after a step `drop_pulse` is 1 exactly if that step emitted DROP, `err_valid` is 1 exactly if it emitted an
error, with that error's code, and otherwise `err_code` is 00. -/
def Obligations.PulsesReportTheStepJustTaken : Prop :=
  ∀ s t : State, step s = .next t →
    (t.dropPulse = true ↔ t.trace = s.trace ++ [.drop]) ∧
    (t.errValid = true ↔ ∃ k, t.trace = s.trace ++ [.err k]) ∧
    (∀ k, t.trace = s.trace ++ [.err k] → t.errCode = errKindCode k) ∧
    (t.errValid = false → t.errCode = 0b00)

/-- R21, R30, R40: no step changes the configuration or takes an event back; a step emits at most one. -/
def Obligations.ConfigurationFixedAndTraceGrows : Prop :=
  ∀ s t : State, step s = .next t →
    t.cfg = s.cfg ∧ (t.trace = s.trace ∨ ∃ e, t.trace = s.trace ++ [e])

/-- R28: the stream offset of the buffer's front never falls, and it moves by exactly the bytes removed: with a byte pushed it
stays, and otherwise it and the bytes held add up to the same number. -/
def Obligations.FrontOffsetCountsRemovedBytes : Prop :=
  ∀ s t : State, step s = .next t →
    s.consumed ≤ t.consumed ∧
    ((t.consumed = s.consumed ∧ t.buf.length = s.buf.length + 1) ∨
      t.consumed + t.buf.length = s.consumed + s.buf.length)

/-- R245: one edge of the clocked reference is a schedule of atomic turns: the scanner's, the accept's and the push's, with
`rst` and `cancel` overriding as R206 says. -/
def Obligations.ClockedEdgeIsAScheduleOfTurns : Prop :=
  ∀ (p : Pins) (s : State),
    takeTurns (edgeTurns p s) (tick { s with pins := p }) = .next (clockEdge p s)

/-! ## Scripts -/

/-- R103: a chunk that fits is appended whole, in order, with no event. The bench's order of steps is the model's choice
(log 17). -/
def Obligations.IngestWithRoomAppendsTheChunk : Prop :=
  ∀ (b : Bench) (chunk : List Byte), b.started = true → b.machine.cfg.admitted = true → b.pending = [] →
    b.machine.buf.length + chunk.length ≤ b.machine.cfg.depth →
    ∃ t, runCommand (.ingest chunk) b = .ok t ∧
      t.machine.buf = b.machine.buf ++ chunk ∧ t.machine.trace = b.machine.trace ∧ t.pending = []

/-- R128: DRAIN ends with no scanner step enabled, from every state of the bench. The bench's order of steps is the model's
choice (log 17). -/
def Obligations.DrainLeavesTheScannerAtRest : Prop :=
  ∀ b : Bench, b.started = true → b.machine.cfg.admitted = true →
    ∃ t, runCommand .drain b = .ok t ∧ scannerRests t.machine = true

/-- R86 ACCEPT: either exactly one ACCEPT happens and `out_ready` is 0 afterwards; or none can happen yet, and then `out_ready`
is still 1, no record is presented, every pending byte has been taken and the scanner is at rest. The bench's order of steps
is the model's choice (log 17). -/
def Obligations.AcceptCommandWaitsForOneAccept : Prop :=
  ∀ b : Bench, b.started = true → b.machine.cfg.admitted = true → b.owed = 0 →
    ∃ t, runCommand .accept b = .ok t ∧
      ((t.owed = 0 ∧ t.machine.pins.outReady = false ∧
          t.machine.trace.count .acc = b.machine.trace.count .acc + 1) ∨
        (t.owed = 1 ∧ t.machine.pins.outReady = true ∧
          t.machine.trace.count .acc = b.machine.trace.count .acc ∧
          t.machine.outValid = false ∧ t.pending = [] ∧ scannerRests t.machine = true))
end

