-- ==== Sys2Proof/Laws/State.lean ====
section
/-! SUPPORT. What each named update of the state does to each field: one lemma per field per update. -/

namespace Sys2Proof.Machine

/-! ## emit -/

@[simp] theorem emit_cfg (e : Event) (s : State) : (emit e s).cfg = s.cfg := rfl
@[simp] theorem emit_buf (e : Event) (s : State) : (emit e s).buf = s.buf := rfl
@[simp] theorem emit_outValid (e : Event) (s : State) : (emit e s).outValid = s.outValid := rfl
@[simp] theorem emit_outRec (e : Event) (s : State) : (emit e s).outRec = s.outRec := rfl
@[simp] theorem emit_errValid (e : Event) (s : State) : (emit e s).errValid = s.errValid := rfl
@[simp] theorem emit_errCode (e : Event) (s : State) : (emit e s).errCode = s.errCode := rfl
@[simp] theorem emit_dropPulse (e : Event) (s : State) : (emit e s).dropPulse = s.dropPulse := rfl
@[simp] theorem emit_trace (e : Event) (s : State) : (emit e s).trace = s.trace ++ [e] := rfl
@[simp] theorem emit_consumed (e : Event) (s : State) : (emit e s).consumed = s.consumed := rfl
@[simp] theorem emit_pins (e : Event) (s : State) : (emit e s).pins = s.pins := rfl
@[simp] theorem emit_decIn (e : Event) (s : State) : (emit e s).decIn = s.decIn := rfl
@[simp] theorem emit_decOut (e : Event) (s : State) : (emit e s).decOut = s.decOut := rfl
@[simp] theorem emit_received (e : Event) (s : State) : (emit e s).received = s.received := rfl
@[simp] theorem emit_stream (e : Event) (s : State) : (emit e s).stream = s.stream := rfl
@[simp] theorem emit_epochStart (e : Event) (s : State) : (emit e s).epochStart = s.epochStart := rfl
@[simp] theorem emit_draws (e : Event) (s : State) : (emit e s).draws = s.draws := rfl
@[simp] theorem emit_sched (e : Event) (s : State) : (emit e s).sched = s.sched := rfl

/-! ## drawOutRec -/

@[simp] theorem drawOutRec_cfg (s : State) : (drawOutRec s).cfg = s.cfg := rfl
@[simp] theorem drawOutRec_buf (s : State) : (drawOutRec s).buf = s.buf := rfl
@[simp] theorem drawOutRec_outValid (s : State) : (drawOutRec s).outValid = s.outValid := rfl
@[simp] theorem drawOutRec_outRec (s : State) : (drawOutRec s).outRec = Config.freeOutRec s.draws := rfl
@[simp] theorem drawOutRec_errValid (s : State) : (drawOutRec s).errValid = s.errValid := rfl
@[simp] theorem drawOutRec_errCode (s : State) : (drawOutRec s).errCode = s.errCode := rfl
@[simp] theorem drawOutRec_dropPulse (s : State) : (drawOutRec s).dropPulse = s.dropPulse := rfl
@[simp] theorem drawOutRec_trace (s : State) : (drawOutRec s).trace = s.trace := rfl
@[simp] theorem drawOutRec_consumed (s : State) : (drawOutRec s).consumed = s.consumed := rfl
@[simp] theorem drawOutRec_pins (s : State) : (drawOutRec s).pins = s.pins := rfl
@[simp] theorem drawOutRec_decIn (s : State) : (drawOutRec s).decIn = s.decIn := rfl
@[simp] theorem drawOutRec_decOut (s : State) : (drawOutRec s).decOut = s.decOut := rfl
@[simp] theorem drawOutRec_received (s : State) : (drawOutRec s).received = s.received := rfl
@[simp] theorem drawOutRec_stream (s : State) : (drawOutRec s).stream = s.stream := rfl
@[simp] theorem drawOutRec_epochStart (s : State) : (drawOutRec s).epochStart = s.epochStart := rfl
@[simp] theorem drawOutRec_draws (s : State) : (drawOutRec s).draws = s.draws + 1 := rfl
@[simp] theorem drawOutRec_sched (s : State) : (drawOutRec s).sched = s.sched := rfl

/-! ## clearPulses -/

@[simp] theorem clearPulses_cfg (s : State) : (clearPulses s).cfg = s.cfg := rfl
@[simp] theorem clearPulses_buf (s : State) : (clearPulses s).buf = s.buf := rfl
@[simp] theorem clearPulses_outValid (s : State) : (clearPulses s).outValid = s.outValid := rfl
@[simp] theorem clearPulses_outRec (s : State) : (clearPulses s).outRec = s.outRec := rfl
@[simp] theorem clearPulses_errValid (s : State) : (clearPulses s).errValid = false := rfl
@[simp] theorem clearPulses_errCode (s : State) : (clearPulses s).errCode = 0 := rfl
@[simp] theorem clearPulses_dropPulse (s : State) : (clearPulses s).dropPulse = false := rfl
@[simp] theorem clearPulses_trace (s : State) : (clearPulses s).trace = s.trace := rfl
@[simp] theorem clearPulses_consumed (s : State) : (clearPulses s).consumed = s.consumed := rfl
@[simp] theorem clearPulses_pins (s : State) : (clearPulses s).pins = s.pins := rfl
@[simp] theorem clearPulses_decIn (s : State) : (clearPulses s).decIn = s.decIn := rfl
@[simp] theorem clearPulses_decOut (s : State) : (clearPulses s).decOut = s.decOut := rfl
@[simp] theorem clearPulses_received (s : State) : (clearPulses s).received = s.received := rfl
@[simp] theorem clearPulses_stream (s : State) : (clearPulses s).stream = s.stream := rfl
@[simp] theorem clearPulses_epochStart (s : State) : (clearPulses s).epochStart = s.epochStart := rfl
@[simp] theorem clearPulses_draws (s : State) : (clearPulses s).draws = s.draws := rfl
@[simp] theorem clearPulses_sched (s : State) : (clearPulses s).sched = s.sched := rfl

/-! ## setDropPulse -/

@[simp] theorem setDropPulse_cfg (s : State) : (setDropPulse s).cfg = s.cfg := rfl
@[simp] theorem setDropPulse_buf (s : State) : (setDropPulse s).buf = s.buf := rfl
@[simp] theorem setDropPulse_outValid (s : State) : (setDropPulse s).outValid = s.outValid := rfl
@[simp] theorem setDropPulse_outRec (s : State) : (setDropPulse s).outRec = s.outRec := rfl
@[simp] theorem setDropPulse_errValid (s : State) : (setDropPulse s).errValid = s.errValid := rfl
@[simp] theorem setDropPulse_errCode (s : State) : (setDropPulse s).errCode = s.errCode := rfl
@[simp] theorem setDropPulse_dropPulse (s : State) : (setDropPulse s).dropPulse = true := rfl
@[simp] theorem setDropPulse_trace (s : State) : (setDropPulse s).trace = s.trace := rfl
@[simp] theorem setDropPulse_consumed (s : State) : (setDropPulse s).consumed = s.consumed := rfl
@[simp] theorem setDropPulse_pins (s : State) : (setDropPulse s).pins = s.pins := rfl
@[simp] theorem setDropPulse_decIn (s : State) : (setDropPulse s).decIn = s.decIn := rfl
@[simp] theorem setDropPulse_decOut (s : State) : (setDropPulse s).decOut = s.decOut := rfl
@[simp] theorem setDropPulse_received (s : State) : (setDropPulse s).received = s.received := rfl
@[simp] theorem setDropPulse_stream (s : State) : (setDropPulse s).stream = s.stream := rfl
@[simp] theorem setDropPulse_epochStart (s : State) : (setDropPulse s).epochStart = s.epochStart := rfl
@[simp] theorem setDropPulse_draws (s : State) : (setDropPulse s).draws = s.draws := rfl
@[simp] theorem setDropPulse_sched (s : State) : (setDropPulse s).sched = s.sched := rfl

/-! ## bufAppend -/

@[simp] theorem bufAppend_cfg (b : Byte) (s : State) : (bufAppend b s).cfg = s.cfg := rfl
@[simp] theorem bufAppend_buf (b : Byte) (s : State) : (bufAppend b s).buf = s.buf ++ [b] := rfl
@[simp] theorem bufAppend_outValid (b : Byte) (s : State) : (bufAppend b s).outValid = s.outValid := rfl
@[simp] theorem bufAppend_outRec (b : Byte) (s : State) : (bufAppend b s).outRec = s.outRec := rfl
@[simp] theorem bufAppend_errValid (b : Byte) (s : State) : (bufAppend b s).errValid = s.errValid := rfl
@[simp] theorem bufAppend_errCode (b : Byte) (s : State) : (bufAppend b s).errCode = s.errCode := rfl
@[simp] theorem bufAppend_dropPulse (b : Byte) (s : State) : (bufAppend b s).dropPulse = s.dropPulse := rfl
@[simp] theorem bufAppend_trace (b : Byte) (s : State) : (bufAppend b s).trace = s.trace := rfl
@[simp] theorem bufAppend_consumed (b : Byte) (s : State) : (bufAppend b s).consumed = s.consumed := rfl
@[simp] theorem bufAppend_pins (b : Byte) (s : State) : (bufAppend b s).pins = s.pins := rfl
@[simp] theorem bufAppend_decIn (b : Byte) (s : State) : (bufAppend b s).decIn = s.decIn := rfl
@[simp] theorem bufAppend_decOut (b : Byte) (s : State) : (bufAppend b s).decOut = s.decOut := rfl
@[simp] theorem bufAppend_received (b : Byte) (s : State) : (bufAppend b s).received = s.received := rfl
@[simp] theorem bufAppend_stream (b : Byte) (s : State) : (bufAppend b s).stream = s.stream ++ [b] := rfl
@[simp] theorem bufAppend_epochStart (b : Byte) (s : State) : (bufAppend b s).epochStart = s.epochStart := rfl
@[simp] theorem bufAppend_draws (b : Byte) (s : State) : (bufAppend b s).draws = s.draws := rfl
@[simp] theorem bufAppend_sched (b : Byte) (s : State) : (bufAppend b s).sched = s.sched := rfl

/-! ## bufEmpty -/

@[simp] theorem bufEmpty_cfg (s : State) : (bufEmpty s).cfg = s.cfg := rfl
@[simp] theorem bufEmpty_buf (s : State) : (bufEmpty s).buf = [] := rfl
@[simp] theorem bufEmpty_outValid (s : State) : (bufEmpty s).outValid = s.outValid := rfl
@[simp] theorem bufEmpty_outRec (s : State) : (bufEmpty s).outRec = s.outRec := rfl
@[simp] theorem bufEmpty_errValid (s : State) : (bufEmpty s).errValid = s.errValid := rfl
@[simp] theorem bufEmpty_errCode (s : State) : (bufEmpty s).errCode = s.errCode := rfl
@[simp] theorem bufEmpty_dropPulse (s : State) : (bufEmpty s).dropPulse = s.dropPulse := rfl
@[simp] theorem bufEmpty_trace (s : State) : (bufEmpty s).trace = s.trace := rfl
@[simp] theorem bufEmpty_consumed (s : State) : (bufEmpty s).consumed = s.consumed + s.buf.length := rfl
@[simp] theorem bufEmpty_pins (s : State) : (bufEmpty s).pins = s.pins := rfl
@[simp] theorem bufEmpty_decIn (s : State) : (bufEmpty s).decIn = s.decIn := rfl
@[simp] theorem bufEmpty_decOut (s : State) : (bufEmpty s).decOut = s.decOut := rfl
@[simp] theorem bufEmpty_received (s : State) : (bufEmpty s).received = s.received := rfl
@[simp] theorem bufEmpty_stream (s : State) : (bufEmpty s).stream = [] := rfl
@[simp] theorem bufEmpty_epochStart (s : State) : (bufEmpty s).epochStart = s.trace.length := rfl
@[simp] theorem bufEmpty_draws (s : State) : (bufEmpty s).draws = s.draws := rfl
@[simp] theorem bufEmpty_sched (s : State) : (bufEmpty s).sched = s.sched := rfl

/-! ## presentRecord -/

@[simp] theorem presentRecord_cfg (r : Record) (s : State) : (presentRecord r s).cfg = s.cfg := rfl
@[simp] theorem presentRecord_buf (r : Record) (s : State) : (presentRecord r s).buf = s.buf := rfl
@[simp] theorem presentRecord_outValid (r : Record) (s : State) : (presentRecord r s).outValid = true := rfl
@[simp] theorem presentRecord_outRec (r : Record) (s : State) : (presentRecord r s).outRec = packRecord r := rfl
@[simp] theorem presentRecord_errValid (r : Record) (s : State) : (presentRecord r s).errValid = s.errValid := rfl
@[simp] theorem presentRecord_errCode (r : Record) (s : State) : (presentRecord r s).errCode = s.errCode := rfl
@[simp] theorem presentRecord_dropPulse (r : Record) (s : State) : (presentRecord r s).dropPulse = s.dropPulse := rfl
@[simp] theorem presentRecord_trace (r : Record) (s : State) : (presentRecord r s).trace = s.trace ++ [.record r] := rfl
@[simp] theorem presentRecord_consumed (r : Record) (s : State) : (presentRecord r s).consumed = s.consumed := rfl
@[simp] theorem presentRecord_pins (r : Record) (s : State) : (presentRecord r s).pins = s.pins := rfl
@[simp] theorem presentRecord_decIn (r : Record) (s : State) : (presentRecord r s).decIn = s.decIn := rfl
@[simp] theorem presentRecord_decOut (r : Record) (s : State) : (presentRecord r s).decOut = s.decOut := rfl
@[simp] theorem presentRecord_received (r : Record) (s : State) : (presentRecord r s).received = s.received := rfl
@[simp] theorem presentRecord_stream (r : Record) (s : State) : (presentRecord r s).stream = s.stream := rfl
@[simp] theorem presentRecord_epochStart (r : Record) (s : State) : (presentRecord r s).epochStart = s.epochStart := rfl
@[simp] theorem presentRecord_draws (r : Record) (s : State) : (presentRecord r s).draws = s.draws := rfl
@[simp] theorem presentRecord_sched (r : Record) (s : State) : (presentRecord r s).sched = s.sched := rfl

/-! ## raiseDecodeError -/

@[simp] theorem raiseDecodeError_cfg (k : ErrKind) (s : State) : (raiseDecodeError k s).cfg = s.cfg := rfl
@[simp] theorem raiseDecodeError_buf (k : ErrKind) (s : State) : (raiseDecodeError k s).buf = s.buf := rfl
@[simp] theorem raiseDecodeError_outValid (k : ErrKind) (s : State) : (raiseDecodeError k s).outValid = s.outValid := rfl
@[simp] theorem raiseDecodeError_outRec (k : ErrKind) (s : State) : (raiseDecodeError k s).outRec = s.outRec := rfl
@[simp] theorem raiseDecodeError_errValid (k : ErrKind) (s : State) : (raiseDecodeError k s).errValid = true := rfl
@[simp] theorem raiseDecodeError_errCode (k : ErrKind) (s : State) : (raiseDecodeError k s).errCode = errKindCode k := rfl
@[simp] theorem raiseDecodeError_dropPulse (k : ErrKind) (s : State) : (raiseDecodeError k s).dropPulse = s.dropPulse := rfl
@[simp] theorem raiseDecodeError_trace (k : ErrKind) (s : State) : (raiseDecodeError k s).trace = s.trace ++ [.err k] := rfl
@[simp] theorem raiseDecodeError_consumed (k : ErrKind) (s : State) : (raiseDecodeError k s).consumed = s.consumed := rfl
@[simp] theorem raiseDecodeError_pins (k : ErrKind) (s : State) : (raiseDecodeError k s).pins = s.pins := rfl
@[simp] theorem raiseDecodeError_decIn (k : ErrKind) (s : State) : (raiseDecodeError k s).decIn = s.decIn := rfl
@[simp] theorem raiseDecodeError_decOut (k : ErrKind) (s : State) : (raiseDecodeError k s).decOut = s.decOut := rfl
@[simp] theorem raiseDecodeError_received (k : ErrKind) (s : State) : (raiseDecodeError k s).received = s.received := rfl
@[simp] theorem raiseDecodeError_stream (k : ErrKind) (s : State) : (raiseDecodeError k s).stream = s.stream := rfl
@[simp] theorem raiseDecodeError_epochStart (k : ErrKind) (s : State) : (raiseDecodeError k s).epochStart = s.epochStart := rfl
@[simp] theorem raiseDecodeError_draws (k : ErrKind) (s : State) : (raiseDecodeError k s).draws = s.draws := rfl
@[simp] theorem raiseDecodeError_sched (k : ErrKind) (s : State) : (raiseDecodeError k s).sched = s.sched := rfl

/-! ## handOver -/

@[simp] theorem handOver_cfg (s : State) : (handOver s).cfg = s.cfg := rfl
@[simp] theorem handOver_buf (s : State) : (handOver s).buf = s.buf := rfl
@[simp] theorem handOver_outValid (s : State) : (handOver s).outValid = false := rfl
@[simp] theorem handOver_outRec (s : State) : (handOver s).outRec = Config.freeOutRec s.draws := rfl
@[simp] theorem handOver_errValid (s : State) : (handOver s).errValid = s.errValid := rfl
@[simp] theorem handOver_errCode (s : State) : (handOver s).errCode = s.errCode := rfl
@[simp] theorem handOver_dropPulse (s : State) : (handOver s).dropPulse = s.dropPulse := rfl
@[simp] theorem handOver_trace (s : State) : (handOver s).trace = s.trace ++ [.acc] := rfl
@[simp] theorem handOver_consumed (s : State) : (handOver s).consumed = s.consumed := rfl
@[simp] theorem handOver_pins (s : State) : (handOver s).pins = s.pins := rfl
@[simp] theorem handOver_decIn (s : State) : (handOver s).decIn = s.decIn := rfl
@[simp] theorem handOver_decOut (s : State) : (handOver s).decOut = s.decOut := rfl
@[simp] theorem handOver_received (s : State) : (handOver s).received = s.received ++ [s.outRec] := rfl
@[simp] theorem handOver_stream (s : State) : (handOver s).stream = s.stream := rfl
@[simp] theorem handOver_epochStart (s : State) : (handOver s).epochStart = s.epochStart := rfl
@[simp] theorem handOver_draws (s : State) : (handOver s).draws = s.draws + 1 := rfl
@[simp] theorem handOver_sched (s : State) : (handOver s).sched = s.sched := rfl

/-! ## resetAll -/

@[simp] theorem resetAll_cfg (s : State) : (resetAll s).cfg = s.cfg := rfl
@[simp] theorem resetAll_buf (s : State) : (resetAll s).buf = [] := rfl
@[simp] theorem resetAll_outValid (s : State) : (resetAll s).outValid = false := rfl
@[simp] theorem resetAll_outRec (s : State) : (resetAll s).outRec = Config.freeOutRec s.draws := rfl
@[simp] theorem resetAll_errValid (s : State) : (resetAll s).errValid = false := rfl
@[simp] theorem resetAll_errCode (s : State) : (resetAll s).errCode = 0 := rfl
@[simp] theorem resetAll_dropPulse (s : State) : (resetAll s).dropPulse = false := rfl
@[simp] theorem resetAll_trace (s : State) : (resetAll s).trace = s.trace := rfl
@[simp] theorem resetAll_consumed (s : State) : (resetAll s).consumed = s.consumed + s.buf.length := rfl
@[simp] theorem resetAll_pins (s : State) : (resetAll s).pins = s.pins := rfl
@[simp] theorem resetAll_decIn (s : State) : (resetAll s).decIn = s.decIn := rfl
@[simp] theorem resetAll_decOut (s : State) : (resetAll s).decOut = s.decOut := rfl
@[simp] theorem resetAll_received (s : State) : (resetAll s).received = s.received := rfl
@[simp] theorem resetAll_stream (s : State) : (resetAll s).stream = [] := rfl
@[simp] theorem resetAll_epochStart (s : State) : (resetAll s).epochStart = s.trace.length := rfl
@[simp] theorem resetAll_draws (s : State) : (resetAll s).draws = s.draws + 1 := rfl
@[simp] theorem resetAll_sched (s : State) : (resetAll s).sched = s.sched := rfl

/-! ## tick: the pulses end, and an unpresented bus value is drawn anew -/

@[simp] theorem tick_cfg (s : State) : (tick s).cfg = s.cfg := by unfold tick; split <;> rfl
@[simp] theorem tick_buf (s : State) : (tick s).buf = s.buf := by unfold tick; split <;> rfl
@[simp] theorem tick_outValid (s : State) : (tick s).outValid = s.outValid := by unfold tick; split <;> rfl
@[simp] theorem tick_errValid (s : State) : (tick s).errValid = false := by unfold tick; split <;> rfl
@[simp] theorem tick_errCode (s : State) : (tick s).errCode = 0 := by unfold tick; split <;> rfl
@[simp] theorem tick_dropPulse (s : State) : (tick s).dropPulse = false := by unfold tick; split <;> rfl
@[simp] theorem tick_trace (s : State) : (tick s).trace = s.trace := by unfold tick; split <;> rfl
@[simp] theorem tick_consumed (s : State) : (tick s).consumed = s.consumed := by unfold tick; split <;> rfl
@[simp] theorem tick_pins (s : State) : (tick s).pins = s.pins := by unfold tick; split <;> rfl
@[simp] theorem tick_decIn (s : State) : (tick s).decIn = s.decIn := by unfold tick; split <;> rfl
@[simp] theorem tick_decOut (s : State) : (tick s).decOut = s.decOut := by unfold tick; split <;> rfl
@[simp] theorem tick_received (s : State) : (tick s).received = s.received := by unfold tick; split <;> rfl
@[simp] theorem tick_stream (s : State) : (tick s).stream = s.stream := by unfold tick; split <;> rfl
@[simp] theorem tick_epochStart (s : State) : (tick s).epochStart = s.epochStart := by unfold tick; split <;> rfl
@[simp] theorem tick_sched (s : State) : (tick s).sched = s.sched := by unfold tick; split <;> rfl
@[simp] theorem tick_outRec (s : State) :
    (tick s).outRec = if s.outValid then s.outRec else Config.freeOutRec s.draws := by unfold tick; split <;> rfl
@[simp] theorem tick_draws (s : State) :
    (tick s).draws = if s.outValid then s.draws else s.draws + 1 := by unfold tick; split <;> rfl

/-! ## takeSlot: the slot's inputs and its frame -/

@[simp] theorem takeSlot_cfg (s : State) : (takeSlot s).cfg = s.cfg := by
  unfold takeSlot turnArgument; split
  · rfl
  · split <;> rfl
@[simp] theorem takeSlot_buf (s : State) : (takeSlot s).buf = s.buf := by
  unfold takeSlot turnArgument; split
  · rfl
  · split <;> rfl
@[simp] theorem takeSlot_outValid (s : State) : (takeSlot s).outValid = s.outValid := by
  unfold takeSlot turnArgument; split
  · rfl
  · split <;> rfl
@[simp] theorem takeSlot_outRec (s : State) : (takeSlot s).outRec = s.outRec := by
  unfold takeSlot turnArgument; split
  · rfl
  · split <;> rfl
@[simp] theorem takeSlot_errValid (s : State) : (takeSlot s).errValid = s.errValid := by
  unfold takeSlot turnArgument; split
  · rfl
  · split <;> rfl
@[simp] theorem takeSlot_errCode (s : State) : (takeSlot s).errCode = s.errCode := by
  unfold takeSlot turnArgument; split
  · rfl
  · split <;> rfl
@[simp] theorem takeSlot_dropPulse (s : State) : (takeSlot s).dropPulse = s.dropPulse := by
  unfold takeSlot turnArgument; split
  · rfl
  · split <;> rfl
@[simp] theorem takeSlot_trace (s : State) : (takeSlot s).trace = s.trace := by
  unfold takeSlot turnArgument; split
  · rfl
  · split <;> rfl
@[simp] theorem takeSlot_consumed (s : State) : (takeSlot s).consumed = s.consumed := by
  unfold takeSlot turnArgument; split
  · rfl
  · split <;> rfl
@[simp] theorem takeSlot_decOut (s : State) : (takeSlot s).decOut = s.decOut := by
  unfold takeSlot turnArgument; split
  · rfl
  · split <;> rfl
@[simp] theorem takeSlot_received (s : State) : (takeSlot s).received = s.received := by
  unfold takeSlot turnArgument; split
  · rfl
  · split <;> rfl
@[simp] theorem takeSlot_stream (s : State) : (takeSlot s).stream = s.stream := by
  unfold takeSlot turnArgument; split
  · rfl
  · split <;> rfl
@[simp] theorem takeSlot_epochStart (s : State) : (takeSlot s).epochStart = s.epochStart := by
  unfold takeSlot turnArgument; split
  · rfl
  · split <;> rfl
@[simp] theorem takeSlot_draws (s : State) : (takeSlot s).draws = s.draws := by
  unfold takeSlot turnArgument; split
  · rfl
  · split <;> rfl
@[simp] theorem takeSlot_pins (s : State) :
    (takeSlot s).pins = match s.sched with | [] => s.pins | slot :: _ => slot.pins := by
  unfold takeSlot
  cases s.sched with
  | nil => rfl
  | cons slot rest => obtain ⟨turn, pins⟩ := slot; cases turn <;> rfl
@[simp] theorem takeSlot_sched (s : State) : (takeSlot s).sched = s.sched.tail := by
  unfold takeSlot turnArgument; split
  · simp_all
  · split <;> simp_all

/-! ## beginStep -/

@[simp] theorem beginStep_cfg (s : State) : (beginStep s).cfg = s.cfg := by simp [beginStep]
@[simp] theorem beginStep_buf (s : State) : (beginStep s).buf = s.buf := by simp [beginStep]
@[simp] theorem beginStep_outValid (s : State) : (beginStep s).outValid = s.outValid := by simp [beginStep]
@[simp] theorem beginStep_errValid (s : State) : (beginStep s).errValid = false := by simp [beginStep]
@[simp] theorem beginStep_errCode (s : State) : (beginStep s).errCode = 0 := by simp [beginStep]
@[simp] theorem beginStep_dropPulse (s : State) : (beginStep s).dropPulse = false := by simp [beginStep]
@[simp] theorem beginStep_trace (s : State) : (beginStep s).trace = s.trace := by simp [beginStep]
@[simp] theorem beginStep_consumed (s : State) : (beginStep s).consumed = s.consumed := by simp [beginStep]
@[simp] theorem beginStep_decOut (s : State) : (beginStep s).decOut = s.decOut := by simp [beginStep]
@[simp] theorem beginStep_received (s : State) : (beginStep s).received = s.received := by simp [beginStep]
@[simp] theorem beginStep_stream (s : State) : (beginStep s).stream = s.stream := by simp [beginStep]
@[simp] theorem beginStep_epochStart (s : State) : (beginStep s).epochStart = s.epochStart := by simp [beginStep]
@[simp] theorem beginStep_outRec (s : State) :
    (beginStep s).outRec = if s.outValid then s.outRec else Config.freeOutRec s.draws := by simp [beginStep]
@[simp] theorem beginStep_draws (s : State) :
    (beginStep s).draws = if s.outValid then s.draws else s.draws + 1 := by simp [beginStep]
@[simp] theorem beginStep_sched (s : State) : (beginStep s).sched = s.sched.tail := by simp [beginStep]
@[simp] theorem beginStep_pins (s : State) :
    (beginStep s).pins = match s.sched with | [] => s.pins | slot :: _ => slot.pins := by simp [beginStep]

/-! ## dispatchFrame -/

@[simp] theorem dispatchFrame_cfg (d : DecodeResult) (s : State) : (dispatchFrame d s).cfg = s.cfg := by cases d <;> rfl
@[simp] theorem dispatchFrame_buf (d : DecodeResult) (s : State) : (dispatchFrame d s).buf = s.buf := by cases d <;> rfl
@[simp] theorem dispatchFrame_dropPulse (d : DecodeResult) (s : State) : (dispatchFrame d s).dropPulse = s.dropPulse := by cases d <;> rfl
@[simp] theorem dispatchFrame_consumed (d : DecodeResult) (s : State) : (dispatchFrame d s).consumed = s.consumed := by cases d <;> rfl
@[simp] theorem dispatchFrame_pins (d : DecodeResult) (s : State) : (dispatchFrame d s).pins = s.pins := by cases d <;> rfl
@[simp] theorem dispatchFrame_decIn (d : DecodeResult) (s : State) : (dispatchFrame d s).decIn = s.decIn := by cases d <;> rfl
@[simp] theorem dispatchFrame_decOut (d : DecodeResult) (s : State) : (dispatchFrame d s).decOut = s.decOut := by cases d <;> rfl
@[simp] theorem dispatchFrame_received (d : DecodeResult) (s : State) : (dispatchFrame d s).received = s.received := by cases d <;> rfl
@[simp] theorem dispatchFrame_stream (d : DecodeResult) (s : State) : (dispatchFrame d s).stream = s.stream := by cases d <;> rfl
@[simp] theorem dispatchFrame_epochStart (d : DecodeResult) (s : State) : (dispatchFrame d s).epochStart = s.epochStart := by cases d <;> rfl
@[simp] theorem dispatchFrame_draws (d : DecodeResult) (s : State) : (dispatchFrame d s).draws = s.draws := by cases d <;> rfl
@[simp] theorem dispatchFrame_sched (d : DecodeResult) (s : State) : (dispatchFrame d s).sched = s.sched := by cases d <;> rfl

end Sys2Proof.Machine
end

