-- ==== Sys2Proof/Laws/Memory.lean ====
section
/-! SUPPORT. The buffer: its canonical form is kept, and what a read gives after each operation. -/

namespace Sys2Proof.Machine

/-- The offsets of a memory's cells rise, whatever bytes it holds. -/
theorem Memory.cells_rising (m : Memory) : m.cells.Pairwise fun a b => a.1 < b.1 := by
  unfold Memory.cells
  rw [List.pairwise_map, List.zipIdx_eq_zip_range', List.pairwise_iff_getElem]
  intro i j hi hj hij
  simp only [List.getElem_zip, List.getElem_range']
  omega

/-- R33: the canonical form says that the capacity is kept. -/
theorem Memory.wf_iff (cap : Nat) (m : Memory) : m.wf cap = true ↔ m.length ≤ cap := by
  simp [Memory.wf, Memory.cells_rising]

theorem Memory.wf_nil (cap : Nat) : Memory.wf cap [] = true := by simp [Memory.wf_iff]

/-- A push into a buffer that is not full keeps the form. -/
theorem bufAppend_wf {b : Byte} {s : State} {cap : Nat} (h : s.buf.length < cap) :
    (bufAppend b s).buf.wf cap = true := by
  simp only [bufAppend_buf, Memory.wf_iff, List.length_append, List.length_singleton]
  omega

/-- A removal keeps the form. -/
theorem bufRemove_wf {n cap : Nat} {s t : State} (h : bufRemove n s = .ok t) (hs : s.buf.wf cap = true) :
    t.buf.wf cap = true := by
  unfold bufRemove at h
  split at h
  · cases h
    simp only [Memory.wf_iff, List.length_drop] at *
    omega
  · cases h

theorem bufEmpty_wf (s : State) (cap : Nat) : (bufEmpty s).buf.wf cap = true := by simp [Memory.wf_iff]

/-- R50: after a removal of `n` bytes the byte that was at offset `n + k` is at offset `k`. -/
theorem Memory.read_drop (m : Memory) (n k : Nat) : Memory.read (m.drop n) k = Memory.read m (n + k) := by
  simp [Memory.read]

/-- R51: an append leaves every byte in place. -/
theorem Memory.read_append_of_ne (m : Memory) (b : Byte) (k : Nat) (h : k ≠ m.length) :
    Memory.read (m ++ [b]) k = Memory.read m k := by
  unfold Memory.read
  rcases Nat.lt_or_ge k m.length with hlt | hge
  · simp [List.getElem?_append_left hlt]
  · have : m.length < k := by omega
    simp [List.getElem?_eq_none (by simp; omega : (m ++ [b]).length ≤ k), List.getElem?_eq_none hge]

/-- R51: an appended byte stands at the back. -/
theorem Memory.read_append_end (m : Memory) (b : Byte) : Memory.read (m ++ [b]) m.length = some b := by
  simp [Memory.read]

/-- Within the buffer, a byte is what the read gives. -/
theorem Memory.read_eq_byteAt (m : Memory) (k : Nat) (h : k < m.length) : Memory.read m k = some (byteAt m k) := by
  simp [Memory.read, byteAt, h]

end Sys2Proof.Machine
end

