-- ==== Sys2Proof/Laws/Ops.lean ====
section
/-! SUPPORT. Everything a shared operation can do, said once; callers cite these instead of unfolding. -/

namespace Sys2Proof.Machine

/-! ## Configuration -/

theorem minLen_eq : minLen = 47 := rfl

/-- R87. -/
theorem admitted_iff (c : Config) : c.admitted = true ↔ 47 ≤ c.depth := by
  unfold Config.admitted
  rw [decide_eq_true_eq, minLen_eq]

/-- R82 `ge_min`. -/
theorem geMin_iff (m : Memory) : geMin m = true ↔ 47 ≤ m.length := by
  unfold geMin
  rw [decide_eq_true_eq, minLen_eq]

theorem scannerFree_iff (s : State) : scannerFree s = true ↔ s.pins.rst = false ∧ s.pins.cancel = false := by
  simp [scannerFree]

/-! ## Buffer accesses -/

theorem bufPeek_of_lt {k : Nat} {s : State} (h : k < s.buf.length) : bufPeek k s = .ok (byteAt s.buf k) := by
  simp [bufPeek, Memory.read_eq_byteAt _ _ h]

theorem bufPeek_ok {k : Nat} {s : State} {b : Byte} (h : bufPeek k s = .ok b) : s.buf.read k = some b := by
  unfold bufPeek at h
  split at h
  · cases h; assumption
  · cases h

theorem bufSlice_of_le {n : Nat} {s : State} (h : n ≤ s.buf.length) : bufSlice n s = .ok (s.buf.take n) := by
  simp [bufSlice, h]

theorem bufSlice_ok {n : Nat} {s : State} {f : List Byte} (h : bufSlice n s = .ok f) :
    n ≤ s.buf.length ∧ f = s.buf.take n := by
  unfold bufSlice at h
  split at h
  · cases h; exact ⟨by assumption, rfl⟩
  · cases h

theorem bufRemove_of_le {n : Nat} {s : State} (h : n ≤ s.buf.length) :
    bufRemove n s = .ok { s with buf := s.buf.drop n, consumed := s.consumed + n } := by
  simp [bufRemove, h]

theorem bufRemove_ok {n : Nat} {s t : State} (h : bufRemove n s = .ok t) :
    n ≤ s.buf.length ∧ t = { s with buf := s.buf.drop n, consumed := s.consumed + n } := by
  unfold bufRemove at h
  split at h
  · cases h; exact ⟨by assumption, rfl⟩
  · cases h

/-! ## The header and the slice length -/

theorem headerAt_iff (f : List Byte) : headerAt f = true ↔ byteAt f 0 = hdr0 ∧ byteAt f 1 = hdr1 := by
  simp [headerAt]

/-- R9: both slice lengths are positive and at most 47. -/
theorem sliceLen_cases (c : Config) : sliceLen c = 47 ∨ sliceLen c = 44 := by
  unfold sliceLen declLen
  split
  · right; rfl
  · left; rfl

theorem sliceLen_le (c : Config) : sliceLen c ≤ minLen := by
  rcases sliceLen_cases c with h | h <;> simp [h, minLen]

theorem sliceLen_pos (c : Config) : 0 < sliceLen c := by
  rcases sliceLen_cases c with h | h <;> omega

/-- R9: at a header the declared length is the constant `L`. -/
theorem declLen_of_header {c : Config} {f : List Byte} (h : headerAt f = true) :
    declLen c (byteAt f 1) = sliceLen c := by
  rw [((headerAt_iff f).mp h).2]; rfl

/-! ## The scanner's state (R29) -/

theorem scanState_drop_iff (c : Config) (m : Memory) (v : Bool) :
    scanState c m v = .drop ↔ minLen ≤ m.length ∧ headerAt m = false := by
  unfold scanState
  split
  · simp; omega
  · split
    · simp_all
    · split
      · simp_all
      · split <;> simp_all

theorem scanState_frame_iff (c : Config) (m : Memory) (v : Bool) :
    scanState c m v = .frame ↔ minLen ≤ m.length ∧ headerAt m = true ∧ v = false := by
  have hL : headerAt m = true → minLen ≤ m.length → ¬ m.length < declLen c (byteAt m 1) := by
    intro h hm
    rw [declLen_of_header h]
    have := sliceLen_le c
    omega
  unfold scanState
  split
  · simp; omega
  · split
    · simp_all
    · split
      · simp_all
      · split <;> simp_all

/-! ## Meanings: what a next state can be -/

theorem execReset_next {s t : State} (h : execReset s = .next t) :
    (s.pins.rst = true ∧ t = resetAll s) ∨ (s.pins.rst = false ∧ t = s) := by
  unfold execReset at h
  split at h <;> cases h <;> simp_all

theorem execCancel_next {s t : State} (h : execCancel s = .next t) :
    (s.pins.rst = false ∧ s.pins.cancel = true ∧ t = clearPulses (bufEmpty s)) ∨ t = s := by
  unfold execCancel at h
  split at h <;> cases h <;> simp_all

theorem execPush_next {b : Byte} {s t : State} (h : execPush b s = .next t) :
    (s.pins.inValid = true ∧ inReady s = true ∧ t = bufAppend b s) ∨ t = s := by
  unfold execPush at h
  split at h <;> cases h <;> simp_all

theorem execAccept_next {s t : State} (h : execAccept s = .next t) :
    (s.pins.rst = false ∧ s.outValid = true ∧ s.pins.outReady = true ∧ t = handOver s) ∨ t = s := by
  unfold execAccept at h
  split at h <;> cases h <;> simp_all

/-- R122: DROP removes one byte, or nothing happens; it never faults. -/
theorem execScanDrop_cases (s : State) :
    (scannerFree s = true ∧ minLen ≤ s.buf.length ∧ headerAt s.buf = false ∧
      execScanDrop s = .next (emit .drop (setDropPulse
        { s with buf := s.buf.drop 1, consumed := s.consumed + 1 }))) ∨
    execScanDrop s = .next s := by
  unfold execScanDrop
  split
  next h =>
    simp only [Bool.and_eq_true, Bool.not_eq_true', geMin, decide_eq_true_eq] at h
    obtain ⟨⟨hf, hm⟩, hh⟩ := h
    have h1 : 1 ≤ s.buf.length := by unfold minLen at hm; omega
    rw [bufRemove_of_le h1]
    exact .inl ⟨hf, hm, hh, rfl⟩
  next => exact .inr rfl

/-- R125: FRAME slices, removes, decodes and dispatches, or nothing happens; it never faults. -/
theorem execScanFrame_cases (s : State) :
    (scannerFree s = true ∧ minLen ≤ s.buf.length ∧ headerAt s.buf = true ∧ s.outValid = false ∧
      execScanFrame s = .next (dispatchFrame (decodeFrame s.cfg (s.buf.take (sliceLen s.cfg)))
        { s with buf := s.buf.drop (sliceLen s.cfg), consumed := s.consumed + sliceLen s.cfg })) ∨
    execScanFrame s = .next s := by
  unfold execScanFrame
  split
  next h =>
    simp only [Bool.and_eq_true, Bool.not_eq_true', geMin, decide_eq_true_eq] at h
    obtain ⟨⟨⟨⟨hf, hm⟩, hh⟩, -⟩, hv⟩ := h
    have h1 : 1 < s.buf.length := by unfold minLen at hm; omega
    have hL : sliceLen s.cfg ≤ s.buf.length := le_trans (sliceLen_le _) hm
    rw [bufPeek_of_lt h1]
    simp only [declLen_of_header hh, bufSlice_of_le hL, bufRemove_of_le hL]
    exact .inl ⟨hf, hm, hh, hv, trivial⟩
  next => exact .inr rfl

/-- What a standalone Decode call can do: nothing but leave a result. -/
theorem execDec_next {i : Instr} (hi : i.group = .decoder) {s t : State} (h : exec i s = .next t) :
    ∃ d, t = { s with decOut := d } := by
  cases i <;> simp only [Instr.group, reduceCtorEq] at hi <;>
    simp only [exec, execDecTooShort, execDecBadHeader, execDecCksumMismatch, execDecOk] at h <;>
    split at h <;> cases h <;> exact ⟨_, rfl⟩

/-! ## Steps -/

/-- A step that answers a next state is a turn from the begun state, in an admitted configuration. -/
theorem step_next_iff (s t : State) :
    step s = .next t ↔ s.cfg.admitted = true ∧ takeTurn (turnNow s) (beginStep s) = .next t := by
  unfold step
  split <;> simp_all

end Sys2Proof.Machine
end

