-- ==== Sys2Proof/Laws/Reference.lean ====
section
/-! SUPPORT. The equations of Decode and of the reference event sequence (R150, R132), so that no proof unfolds them. -/

namespace Sys2Proof.Machine

/-! ## Bytes -/

/-- R15. -/
theorem le16_toNat (f : List Byte) (k : Nat) :
    (le16 f k).toNat = (byteAt f k).toNat + 256 * (byteAt f (k + 1)).toNat := by
  have h := (byteAt f k).isLt
  unfold le16
  rw [BitVec.toNat_append, ← Nat.shiftLeft_add_eq_or_of_lt h, Nat.shiftLeft_eq]
  omega

theorem byteAt_append_left (x y : List Byte) {k : Nat} (h : k < x.length) : byteAt (x ++ y) k = byteAt x k := by
  simp [byteAt, List.getElem?_append_left h]

/-- The header test looks at two bytes only. -/
theorem headerAt_append (x y : List Byte) (h : minLen ≤ x.length) : headerAt (x ++ y) = headerAt x := by
  rw [minLen_eq] at h
  unfold headerAt
  rw [byteAt_append_left x y (by omega), byteAt_append_left x y (by omega)]

/-! ## Decode -/

/-- R150: what a decoded record says of the frame. -/
theorem decodeFrame_ok {c : Config} {f : List Byte} {r : Record} (h : decodeFrame c f = .ok r) :
    minLen ≤ f.length ∧ headerAt f = true ∧ checksumCalc f = checksumField f ∧ r = parseRecord c f := by
  unfold decodeFrame at h
  by_cases hs : f.length < minLen
  · rw [if_pos hs] at h; cases h
  · rw [if_neg hs] at h
    cases hh : headerAt f with
    | false => rw [hh] at h; cases h
    | true =>
      rw [hh] at h
      by_cases hc : checksumCalc f = checksumField f
      · simp [hc] at h
        exact ⟨Nat.le_of_not_lt hs, rfl, hc, h.symm⟩
      · simp [hc] at h

/-- R77(d): behind a header Decode assembles a legal record. -/
theorem parseRecord_wf {c : Config} {f : List Byte} (h : headerAt f = true) : (parseRecord c f).wf = true := by
  unfold parseRecord
  rw [declLen_of_header h]
  rcases sliceLen_cases c with e | e <;> rw [e] <;> simp [Record.wf, pointCount]

/-- A dispatched frame is one event. -/
theorem dispatchFrame_trace (d : DecodeResult) (s : State) :
    (dispatchFrame d s).trace = s.trace ++ [frameEvent d] := by
  cases d <;> rfl

/-! ## The reference sequence -/

/-- As many rounds as there are bytes are enough. -/
theorem referenceGo_fuel (c : Config) : ∀ (n m : Nat) (x : List Byte), x.length ≤ n → x.length ≤ m →
    referenceGo c n x = referenceGo c m x := by
  have nil : ∀ n, referenceGo c n [] = ([], []) := fun n => by cases n <;> simp [referenceGo, minLen]
  intro n
  induction n with
  | zero =>
    intro m x h _
    rw [List.eq_nil_of_length_eq_zero (Nat.le_zero.mp h), nil, nil]
  | succ n ih =>
    intro m x h1 h2
    cases m with
    | zero => rw [List.eq_nil_of_length_eq_zero (Nat.le_zero.mp h2), nil, nil]
    | succ m =>
      unfold referenceGo
      by_cases hm : x.length < minLen
      · simp [hm]
      · have hp := sliceLen_pos c
        have : 1 ≤ x.length := by rw [minLen_eq] at hm; omega
        simp only [hm, if_false]
        rw [ih m (x.drop (sliceLen c)) (by simp; omega) (by simp; omega),
          ih m (x.drop 1) (by simp; omega) (by simp; omega)]

/-- R132: below 47 bytes there is no event. -/
theorem reference_short (c : Config) (x : List Byte) (h : x.length < minLen) : reference c x = ([], x) := by
  unfold reference
  cases hx : x.length with
  | zero => rfl
  | succ n => unfold referenceGo; simp [h]

/-- R132: at a header, one frame's event. -/
theorem reference_frame (c : Config) (x : List Byte) (h : minLen ≤ x.length) (h2 : headerAt x = true) :
    reference c x = (frameEvent (decodeFrame c (x.take (sliceLen c))) :: (reference c (x.drop (sliceLen c))).1,
      (reference c (x.drop (sliceLen c))).2) := by
  have hp := sliceLen_pos c
  obtain ⟨n, hn⟩ : ∃ n, x.length = n + 1 := ⟨x.length - 1, by rw [minLen_eq] at h; omega⟩
  have hm : ¬ x.length < minLen := by omega
  unfold reference
  rw [hn]
  conv_lhs => unfold referenceGo
  simp only [hm, if_false, h2, if_true]
  rw [referenceGo_fuel c n (x.drop (sliceLen c)).length _ (by simp; omega) (by simp)]

/-- R132: anywhere else, one DROP. -/
theorem reference_drop (c : Config) (x : List Byte) (h : minLen ≤ x.length) (h2 : headerAt x = false) :
    reference c x = (.drop :: (reference c (x.drop 1)).1, (reference c (x.drop 1)).2) := by
  obtain ⟨n, hn⟩ : ∃ n, x.length = n + 1 := ⟨x.length - 1, by rw [minLen_eq] at h; omega⟩
  have hm : ¬ x.length < minLen := by omega
  unfold reference
  rw [hn]
  conv_lhs => unfold referenceGo
  simp only [hm, if_false, h2, Bool.false_eq_true]
  rw [referenceGo_fuel c n (x.drop 1).length _ (by simp; omega) (by simp)]

end Sys2Proof.Machine
end

