-- ==== Sys2Proof/Laws/Step.lean ====
section
/-! SUPPORT. What a step can do, said once: the effects an operation can have on the state it is executed in. -/

namespace Sys2Proof.Machine

/-- The effects an operation can have, each with the condition it needs. -/
inductive Effect (s : State) : State → Prop
  /-- No change: a stall, a wait, a hold or a disabled operation. -/
  | same : Effect s s
  /-- RESET (R230). -/
  | reset (h : s.pins.rst = true) : Effect s (resetAll s)
  /-- CANCEL (R104). -/
  | cancel (h : s.pins.rst = false) (h2 : s.pins.cancel = true) : Effect s (clearPulses (bufEmpty s))
  /-- PUSH (R100). -/
  | push (b : Byte) (h : inReady s = true) : Effect s (bufAppend b s)
  /-- ACCEPT (R180). -/
  | accept (h : s.pins.rst = false) (h2 : s.outValid = true) (h3 : s.pins.outReady = true) : Effect s (handOver s)
  /-- DROP (R122). -/
  | drop (h : minLen ≤ s.buf.length) (h2 : headerAt s.buf = false) :
      Effect s (emit .drop (setDropPulse { s with buf := s.buf.drop 1, consumed := s.consumed + 1 }))
  /-- FRAME (R125). -/
  | frame (h : minLen ≤ s.buf.length) (h2 : headerAt s.buf = true) (h3 : s.outValid = false) :
      Effect s (dispatchFrame (decodeFrame s.cfg (s.buf.take (sliceLen s.cfg)))
        { s with buf := s.buf.drop (sliceLen s.cfg), consumed := s.consumed + sliceLen s.cfg })
  /-- A standalone Decode call (R150). -/
  | decode (d : Option DecodeResult) : Effect s { s with decOut := d }

theorem exec_effect {i : Instr} {s t : State} (h : exec i s = .next t) : Effect s t := by
  by_cases hd : i.group = .decoder
  · obtain ⟨d, rfl⟩ := execDec_next hd h
    exact .decode d
  · cases i <;> simp only [Instr.group, not_true_eq_false] at hd <;> simp only [exec] at h
    · rcases execReset_next h with ⟨a, rfl⟩ | ⟨_, rfl⟩
      · exact .reset a
      · exact .same
    · rcases execCancel_next h with ⟨a, b, rfl⟩ | rfl
      · exact .cancel a b
      · exact .same
    · rcases execPush_next h with ⟨_, a, rfl⟩ | rfl
      · exact .push _ a
      · exact .same
    · cases h; exact .same
    · rcases execAccept_next h with ⟨a, b, c, rfl⟩ | rfl
      · exact .accept a b c
      · exact .same
    · cases h; exact .same
    · cases h; exact .same
    · cases h; exact .same
    · cases h; exact .same
    · rcases execScanFrame_cases s with ⟨_, a, b, c, e⟩ | e <;> rw [e] at h <;> cases h
      · exact .frame a b c
      · exact .same
    · rcases execScanDrop_cases s with ⟨_, a, b, e⟩ | e <;> rw [e] at h <;> cases h
      · exact .drop a b
      · exact .same

/-- Every step that answers a next state is one effect on the begun state, in an admitted configuration. -/
theorem step_effect {s t : State} (h : step s = .next t) : s.cfg.admitted = true ∧ Effect (beginStep s) t := by
  obtain ⟨a, h⟩ := (step_next_iff s t).mp h
  refine ⟨a, ?_⟩
  unfold takeTurn at h
  split at h
  · exact exec_effect h
  · cases h; exact .same

end Sys2Proof.Machine
end

