-- ==== Sys2Proof/Laws/Script.lean ====
section
/-! SUPPORT. What the bench's operations do, said once. -/

namespace Sys2Proof.Machine

/-! ## atRest -/

@[simp] theorem atRest_buf (b : Bench) : (atRest b).machine.buf = b.machine.buf := rfl
@[simp] theorem atRest_cfg (b : Bench) : (atRest b).machine.cfg = b.machine.cfg := rfl
@[simp] theorem atRest_outValid (b : Bench) : (atRest b).machine.outValid = b.machine.outValid := rfl
@[simp] theorem atRest_trace (b : Bench) : (atRest b).machine.trace = b.machine.trace := rfl
@[simp] theorem atRest_pins (b : Bench) : (atRest b).machine.pins = restPins b.machine := rfl
@[simp] theorem atRest_pending (b : Bench) : (atRest b).pending = b.pending := rfl
@[simp] theorem atRest_owed (b : Bench) : (atRest b).owed = b.owed := rfl
@[simp] theorem atRest_started (b : Bench) : (atRest b).started = b.started := rfl

/-- Between commands only the buffer's fullness holds `in_ready` at 0. -/
theorem inReady_atRest (b : Bench) :
    inReady (atRest b).machine = decide (b.machine.buf.length < b.machine.cfg.depth) := rfl

/-! ## holdSink and payAccept -/

@[simp] theorem holdSink_buf (l : Bool) (n : Nat) (b : Bench) : (holdSink l n b).machine.buf = b.machine.buf := rfl
@[simp] theorem holdSink_cfg (l : Bool) (n : Nat) (b : Bench) : (holdSink l n b).machine.cfg = b.machine.cfg := rfl
@[simp] theorem holdSink_outValid (l : Bool) (n : Nat) (b : Bench) :
    (holdSink l n b).machine.outValid = b.machine.outValid := rfl
@[simp] theorem holdSink_trace (l : Bool) (n : Nat) (b : Bench) : (holdSink l n b).machine.trace = b.machine.trace := rfl
@[simp] theorem holdSink_outReady (l : Bool) (n : Nat) (b : Bench) : (holdSink l n b).machine.pins.outReady = l := rfl
@[simp] theorem holdSink_pending (l : Bool) (n : Nat) (b : Bench) : (holdSink l n b).pending = b.pending := rfl
@[simp] theorem holdSink_owed (l : Bool) (n : Nat) (b : Bench) : (holdSink l n b).owed = n := rfl

@[simp] theorem payAccept_owed (b : Bench) : (payAccept b).owed = b.owed - 1 := by
  unfold payAccept
  split <;> simp_all

/-- An accept that pays the last one owed leaves `out_ready` at 0; otherwise the inputs stay. -/
theorem payAccept_outReady (b : Bench) :
    (payAccept b).machine.pins.outReady = (b.owed != 1 && b.machine.pins.outReady) := by
  unfold payAccept
  split <;> simp_all

/-! ## Turns and commands -/

/-- A turn of the bench is one step of the machine; nothing else of the bench changes. -/
theorem benchTurn_ok {t : Turn} {p : Pins} {b b' : Bench} (h : benchTurn t p b = .ok b') :
    ∃ s, step { b.machine with sched := { turn := t, pins := p } :: b.machine.sched } = .next s ∧
      b' = { b with machine := s } := by
  unfold benchTurn at h
  split at h <;> cases h
  exact ⟨_, by assumption, rfl⟩

/-- A step that answers a next state is a turn of the bench that goes on. -/
theorem benchTurn_of_next {t : Turn} {p : Pins} {b : Bench} {s : State}
    (h : step { b.machine with sched := { turn := t, pins := p } :: b.machine.sched } = .next s) :
    benchTurn t p b = .ok { b with machine := s } := by
  unfold benchTurn
  rw [h]

/-- R86: a script that runs a list of commands runs its parts in turn. -/
theorem runCommands_append (xs ys : List Command) (b : Bench) :
    runCommands (xs ++ ys) b = (runCommands xs b).bind (runCommands ys) := by
  induction xs generalizing b with
  | nil => rfl
  | cons x xs ih =>
    simp only [List.cons_append, runCommands, bind]
    cases runCommand x b with
    | error e => rfl
    | ok b' => exact ih b'

end Sys2Proof.Machine
end

