-- ==== Sys2Proof/Laws/Words.lean ====
section
/-! SUPPORT. The bits of the selection words, and what a scanner word decodes to. -/

namespace Sys2Proof

/-- R82: which signal each bit of the scanner word carries. -/
theorem packScanWord_getLsbD (gm gl ov : Bool) (b0 b1 : Byte) (i : Nat) :
    (packScanWord gm gl ov b0 b1).getLsbD i =
      if i < 8 then b1.getLsbD i else if i < 16 then b0.getLsbD (i - 8)
      else if i = 16 then ov else if i = 17 then gl else if i = 18 then gm else false := by
  change BitVec.getLsbD (BitVec.ofBool gm ++ BitVec.ofBool gl ++ BitVec.ofBool ov ++ b0 ++ b1) i = _
  simp only [BitVec.getLsbD_append]
  split
  · rfl
  · split
    · have : i < 16 := by omega
      simp [this]
    · have h16 : ¬ i < 16 := by omega
      simp only [h16, if_false]
      split
      · have : i = 16 := by omega
        subst this; simp
      · split
        · have : i = 17 := by omega
          subst this; simp
        · have h1 : i ≠ 16 := by omega
          have h2 : i ≠ 17 := by omega
          simp only [h1, h2, if_false]
          by_cases h : i = 18
          · subst h; simp
          · simp only [h, if_false, BitVec.getLsbD_ofBool, Bool.and_eq_false_imp, decide_eq_true_eq]
            omega

theorem packScanWord_b1 (gm gl ov : Bool) (b0 b1 : Byte) :
    (packScanWord gm gl ov b0 b1).extractLsb' 0 8 = b1 := by
  apply BitVec.eq_of_getLsbD_eq
  intro i hi
  simp [packScanWord_getLsbD, hi]

theorem packScanWord_b0 (gm gl ov : Bool) (b0 b1 : Byte) :
    (packScanWord gm gl ov b0 b1).extractLsb' 8 8 = b0 := by
  apply BitVec.eq_of_getLsbD_eq
  intro i hi
  have : 8 + i < 16 := by omega
  simp [packScanWord_getLsbD, hi, this]

/-- A row whose mask fixes the two front bytes selects only words with the pattern's front bytes. -/
theorem rowSelects_front {w mask pattern : BitVec 19} (h : rowSelects w mask pattern = true)
    (hm : mask.extractLsb' 0 16 = 0xFFFF) :
    w.extractLsb' 8 8 = pattern.extractLsb' 8 8 ∧ w.extractLsb' 0 8 = pattern.extractLsb' 0 8 := by
  have e : w &&& mask = pattern := by simpa [rowSelects] using h
  have hb : ∀ i, i < 16 → mask.getLsbD i = true := by
    intro i hi
    have := congrArg (fun x => BitVec.getLsbD x i) hm
    simp only [BitVec.getLsbD_extractLsb', hi, decide_true, Bool.true_and, Nat.zero_add] at this
    rw [this]
    exact (BitVec.getLsbD_allOnes (v := 16) (i := i)).trans (by simp [hi])
  constructor <;> apply BitVec.eq_of_getLsbD_eq <;> intro i hi <;> rw [← e] <;>
    simp only [BitVec.getLsbD_extractLsb', BitVec.getLsbD_and]
  · rw [hb (8 + i) (by omega), Bool.and_true]
  · rw [hb (0 + i) (by omega), Bool.and_true]

/-- R82: what a scanner word with `ge_min = 1` decodes to. -/
theorem decodeScanner_pack (gl ov : Bool) (b0 b1 : Byte) :
    decodeScanner (packScanWord true gl ov b0 b1) =
      if b0 = hdr0 ∧ b1 = hdr1 then
        (if gl then (if ov then .scanHoldOut else .scanFrame) else .scanWaitLen ov)
      else .scanDrop gl ov b0 b1 := by
  by_cases h : b0 = hdr0 ∧ b1 = hdr1
  · obtain ⟨rfl, rfl⟩ := h
    revert gl ov
    decide
  · have header : ∀ m p : BitVec 19, m.extractLsb' 0 16 = 0xFFFF → p.extractLsb' 8 8 = hdr0 →
        p.extractLsb' 0 8 = hdr1 → rowSelects (packScanWord true gl ov b0 b1) m p = false := by
      intro m p hm h0 h1
      by_contra hc
      have hf := rowSelects_front (by simpa using hc) hm
      rw [packScanWord_b0, packScanWord_b1, h0, h1] at hf
      exact h hf
    have first : rowSelects (packScanWord true gl ov b0 b1) 0x40000 0x00000 = false := by
      by_contra hc
      have e : packScanWord true gl ov b0 b1 &&& 0x40000 = 0 := by simpa [rowSelects] using hc
      have bit := congrArg (fun x => BitVec.getLsbD x 18) e
      simp only [BitVec.getLsbD_and, packScanWord_getLsbD] at bit
      exact absurd bit (by simp)
    unfold decodeScanner
    rw [first, header _ _ rfl rfl rfl, header _ _ rfl rfl rfl, header _ _ rfl rfl rfl, packScanWord_b0,
      packScanWord_b1, packScanWord_getLsbD, packScanWord_getLsbD]
    simp [h]

end Sys2Proof
end

