-- ==== Sys2Proof/Tests/Slice0.lean ====
section
/-! SUPPORT. Small tests, their expected results taken from 95_test_vectors.md (the vector is named at each) or worked out by
hand from the rule named; and for every statement with hypotheses a state and operands that meet them. -/

-- One theorem at a time: checked all at once, their threads' stacks exceed the memory limit the package is compiled under.
set_option Elab.async false

namespace Sys2Proof.Tests

open Sys2Proof Sys2Proof.Machine

/-! ## Byte sequences of 95_test_vectors.md section 1 -/

def frameA : List Byte :=
  [0x54, 0x2C, 0xD2, 0x04, 0x00, 0x00, 0xE8, 0x03, 0x64, 0xE2, 0x04, 0x65, 0xDC, 0x05, 0x66, 0xD6,
   0x06, 0x67, 0xD0, 0x07, 0x68, 0xCA, 0x08, 0x69, 0xC4, 0x09, 0x6A, 0xBE, 0x0A, 0x6B, 0xB8, 0x0B,
   0x6C, 0xB2, 0x0C, 0x6D, 0xAC, 0x0D, 0x6E, 0xA6, 0x0E, 0x6F, 0x00, 0x28, 0x23, 0x4D, 0x10]

/-- REC_A, from the table of section 1. -/
def recA : Record :=
  { speedRaw := 1234, startRaw := 0, endRaw := 9000, npts := 12
    points := [⟨1000, 100⟩, ⟨1250, 101⟩, ⟨1500, 102⟩, ⟨1750, 103⟩, ⟨2000, 104⟩, ⟨2250, 105⟩, ⟨2500, 106⟩,
      ⟨2750, 107⟩, ⟨3000, 108⟩, ⟨3250, 109⟩, ⟨3500, 110⟩, ⟨3750, 111⟩] }

/-- ABAD: FRAME_A with byte 45 changed from 4D to 4C. -/
def frameABad : List Byte := frameA.set 45 0x4C

/-- 47 bytes with no header. -/
def zeros47 : List Byte := List.replicate 47 0

/-- The literal configuration of R134. -/
def literal : Config := { lenFromByte1 := true, depth := 64 }

/-! ## Small states -/

/-- The reset state with a buffer, an output and input levels. -/
def at_ (m : List Byte) (v : Bool) (p : Pins) : State := { State.reset with buf := m, outValid := v, pins := p }

/-- The reset state with a frame given to a standalone Decode call. -/
def decoding (f : List Byte) : State := { State.reset with decIn := f }

def idle : Pins := Pins.idle
def offering (b : Byte) : Pins := { Pins.idle with inValid := true, inData := b }
def resetting : Pins := { Pins.idle with rst := true }
def cancelling : Pins := { Pins.idle with cancel := true }
def stalling : Pins := { Pins.idle with outReady := false }

/-- The reset state with one turn scheduled. -/
def scheduled (t : Turn) (p : Pins) (m : List Byte) (v : Bool) : State :=
  { State.reset with buf := m, outValid := v, sched := [{ turn := t, pins := p }] }

/-- The next state passes a check; a stop does not. -/
def nextIs (o : Host.Outcome State Fault Refusal) (check : State → Bool) : Bool :=
  match o with
  | .next t => check t
  | _ => false

/-! ## Well-formedness -/

/-- R82: a header at the front is never a DROP. -/
theorem test_wf_refuses_drop_of_header : (Instr.scanDrop true false 0x54 0x2C).wf = false := by decide
theorem test_wf_admits_drop_of_junk : (Instr.scanDrop true false 0x54 0x2D).wf = true := by decide
/-- R87. -/
theorem test_depth_46_not_admitted : Config.admitted { lenFromByte1 := false, depth := 46 } = false := by decide
theorem test_depth_47_admitted : Config.admitted { lenFromByte1 := true, depth := 47 } = true := by decide

/-! ## Decoding: words written out from R81, R82, R83 -/

/-- P = rst, cancel, in_valid, in_ready, out_valid, out_ready; vectors L2.8. -/
theorem test_decode_reset : decodeInput 0b111111 0 = .ok (.reset true true true true true) := by decide
theorem test_decode_reset_output : decodeOutput 0b100000 = .ok (.reset false false false false false) := by decide
theorem test_decode_cancel : decodeInput 0b011011 0 = .ok (.cancel true false true true) := by decide
theorem test_decode_push : decodeInput 0b001111 0x54 = .ok (.push true true 0x54) := by decide
theorem test_decode_inStall : decodeInput 0b001010 0x10 = .ok (.inStall true false 0x10) := by decide
theorem test_decode_accept : decodeOutput 0b011011 = .ok (.accept true true false) := by decide
theorem test_decode_outStall : decodeOutput 0b001110 = .ok (.outStall false true true) := by decide
theorem test_decode_no_operation :
    decodeInput 0b000100 0 = .error .noInputOperation ∧ decodeOutput 0b000001 = .error .noOutputOperation := by decide
/-- S = ge_min, ge_len, out_busy, b0, b1; vectors L2.2. -/
theorem test_decode_scanWaitMin : decodeScanner 0x00000 = .scanWaitMin false false 0 0 := by decide
theorem test_decode_scanWaitLen : decodeScanner 0b1000101010000101100 = .scanWaitLen false := by decide
theorem test_decode_scanHoldOut : decodeScanner 0b1110101010000101100 = .scanHoldOut := by decide
theorem test_decode_scanFrame : decodeScanner 0b1100101010000101100 = .scanFrame := by decide
theorem test_decode_scanDrop : decodeScanner 0x70011 = .scanDrop true true 0x00 0x11 := by decide
theorem test_decode_scanDrop_half_header : decodeScanner 0x6542D = .scanDrop true false 0x54 0x2D := by decide
/-- D = short, hdr_ok, cks_eq; vectors L2.3. -/
theorem test_decode_decTooShort : decodeDecoder 0b100 = .decTooShort false false := by decide
theorem test_decode_decBadHeader : decodeDecoder 0b000 = .decBadHeader false := by decide
theorem test_decode_decCksumMismatch : decodeDecoder 0b010 = .decCksumMismatch := by decide
theorem test_decode_decOk : decodeDecoder 0b011 = .decOk := by decide
theorem test_decode_reserved_bits : decodeBytes .input [0x40] = .error .reservedBits := by decide
theorem test_decode_truncated : decodeBytes .input [0x0C] = .error .truncated := by decide

/-- The words of R81 as bytes, and a word of R82 in three bytes, the least significant first. -/
theorem test_encode_push : encode (.push false false 0xA5) = [0x0C, 0xA5] := by decide
theorem test_encode_scanFrame : encode .scanFrame = [0x2C, 0x54, 0x06] := by decide

/-! ## Selection words formed from the state (L2.2) -/

theorem test_scanWord_frame : scanWord (at_ frameA false idle) = 0x6542C := by decide +kernel
theorem test_scanWord_46 : scanWord (at_ (frameA.take 46) false idle) = 0x00000 := by decide +kernel
theorem test_scanWord_drop_hold :
    scanWord (at_ ([0x00, 0x11, 0x22, 0x33, 0xFF] ++ frameA) true idle) = 0x70011 := by decide +kernel

/-! ## The decoder (L2.3, L2.6, L2.7) -/

theorem test_decodeFrame_A : decodeFrame Config.reference frameA = .ok recA := by decide +kernel
theorem test_decodeFrame_46 : decodeFrame Config.reference (frameA.take 46) = .err .tooShort := by decide +kernel
theorem test_decodeFrame_byte1 : decodeFrame Config.reference (frameA.set 1 0x2D) = .err .badHeader := by decide +kernel
theorem test_decodeFrame_zeros : decodeFrame Config.reference zeros47 = .err .badHeader := by decide +kernel
theorem test_decodeFrame_bad : decodeFrame Config.reference frameABad = .err .checksumMismatch := by decide +kernel
theorem test_decodeFrame_spare_summed :
    decodeFrame Config.reference (frameA.set 42 0x01) = .err .checksumMismatch := by decide +kernel
/-- F48: the end angle is placed by the slice's own length. -/
theorem test_decodeFrame_48 :
    decodeFrame Config.reference (frameA.take 45 ++ [0x00, 0x4D, 0x10]) = .ok { recA with endRaw := 35 } := by
  decide +kernel
/-- L2.7 row 2: 11 points in the literal configuration. -/
theorem test_decodeFrame_literal :
    decodeFrame literal frameA = .ok { recA with npts := 11, points := recA.points.take 11 } := by decide +kernel
/-- The bus value of section 1. -/
theorem test_packRecord_A : packRecord recA =
    0x6F0EA66E0DAC6D0CB26C0BB86B0ABE6A09C46908CA6807D06706D66605DC6504E26403E8C2328000004D2 := by decide +kernel
/-- L2.7 row 3: slot 11 is 0. -/
theorem test_packRecord_literal : packRecord { recA with npts := 11, points := recA.points.take 11 } =
    0x0000006E0DAC6D0CB26C0BB86B0ABE6A09C46908CA6807D06706D66605DC6504E26403E8B2328000004D2 := by decide +kernel
theorem test_encodeFrame_A : encodeFrame recA [0x00] = frameA := by decide +kernel

/-! ## One operation each -/

/-- L2.9 row 1. -/
theorem test_reset : nextIs (exec (.reset false false false true true) (at_ (frameA.take 30) true resetting))
    (fun t => t.buf.isEmpty && !t.outValid && t.trace.isEmpty) = true := by decide +kernel
/-- L2.1 row 7. -/
theorem test_cancel_keeps_output :
    nextIs (exec (.cancel false false true false) (at_ (frameA.take 30) true cancelling))
      (fun t => t.buf.isEmpty && t.outValid) = true := by decide +kernel
/-- L2.1 row 1. -/
theorem test_push : nextIs (exec (.push false true 0x54) (at_ [] false (offering 0x54)))
    (fun t => t.buf == [0x54] && inReady t) = true := by decide +kernel
/-- L2.1 row 3: a full buffer. -/
theorem test_inStall :
    nextIs (step (scheduled .input (offering 0x10) (List.replicate 64 0) false))
      (fun t => t.buf == List.replicate 64 0 && !inReady t) = true := by decide +kernel
/-- L2.4 row 1. -/
theorem test_accept :
    nextIs (exec (.accept false false false) { at_ [] true idle with outRec := packRecord recA })
      (fun t => !t.outValid && t.trace == [.acc] && t.received == [packRecord recA]) = true := by decide +kernel
/-- L2.1 row 6: an accept while `cancel = 1`. -/
theorem test_accept_under_cancel :
    nextIs (step (scheduled .output cancelling [] true)) (fun t => !t.outValid && t.trace == [.acc]) = true := by
  decide +kernel
/-- L2.4 row 2. -/
theorem test_outStall : nextIs (step (scheduled .output stalling [] true))
    (fun t => t.outValid && t.outRec == 0 && t.trace.isEmpty) = true := by decide +kernel
/-- L2.4 row 3. -/
theorem test_no_accept_without_record :
    nextIs (step (scheduled .output idle [] false)) (fun t => !t.outValid && t.trace.isEmpty) = true := by
  decide +kernel
/-- L2.2 row 2: 46 bytes with a header. -/
theorem test_scanWaitMin : nextIs (step (scheduled .scanner idle (frameA.take 46) false))
    (fun t => t.buf == frameA.take 46 && t.trace.isEmpty) = true := by decide +kernel
/-- L2.2 row 4. -/
theorem test_scanHoldOut : nextIs (step (scheduled .scanner idle frameA true))
    (fun t => t.buf == frameA && t.trace.isEmpty) = true := by decide +kernel
/-- L2.2 row 3. -/
theorem test_scanFrame : nextIs (step (scheduled .scanner idle frameA false))
    (fun t => t.buf.isEmpty && t.outValid && t.outRec == packRecord recA && t.trace == [.record recA]) = true := by
  decide +kernel
/-- L2.2 row 12: the false header FH. -/
theorem test_scanFrame_false_header :
    nextIs (step (scheduled .scanner idle ([0x54, 0x2C, 0x01] ++ frameA) false))
      (fun t => t.buf == [0x23, 0x4D, 0x10] && t.errValid && t.errCode == 0b11 && !t.outValid) = true := by
  decide +kernel
/-- L2.2 row 6: a DROP during a hold. -/
theorem test_scanDrop : nextIs (step (scheduled .scanner idle ([0x00, 0x11, 0x22, 0x33, 0xFF] ++ frameA) true))
    (fun t => t.buf.length == 51 && t.dropPulse && t.trace == [.drop]) = true := by decide +kernel
/-- L2.2 row 7: the first 54 of 54 54 2C is dropped. -/
theorem test_scanDrop_keeps_header :
    nextIs (step (scheduled .scanner idle ([0x54] ++ frameA) false)) (fun t => t.buf == frameA) = true := by
  decide +kernel
/-- R82: the scanner takes no step while `cancel = 1`. -/
theorem test_scanner_under_cancel :
    nextIs (step (scheduled .scanner cancelling frameA false)) (fun t => t.buf == frameA) = true := by decide +kernel
/-- L2.3 rows 2, 7, 11 and 4 as standalone calls. -/
theorem test_decTooShort : nextIs (step (scheduled (.decoder (frameA.take 46)) idle [] false))
    (fun t => t.decOut == some (.err .tooShort)) = true := by decide +kernel
theorem test_decBadHeader : nextIs (step (scheduled (.decoder (frameA.set 0 0x55)) idle [] false))
    (fun t => t.decOut == some (.err .badHeader)) = true := by decide +kernel
theorem test_decCksumMismatch : nextIs (step (scheduled (.decoder frameABad) idle [] false))
    (fun t => t.decOut == some (.err .checksumMismatch)) = true := by decide +kernel
theorem test_decOk : nextIs (step (scheduled (.decoder frameA) idle [] false))
    (fun t => t.decOut == some (.ok recA) && t.trace.isEmpty) = true := by decide +kernel
/-- L2.7 row 4: the literal configuration. -/
theorem test_literal_frame :
    nextIs (exec .scanFrame { State.resetWith literal with buf := frameA })
      (fun t => t.buf == [0x23, 0x4D, 0x10] && t.errCode == 0b01 && t.trace == [.err .tooShort]) = true := by
  decide +kernel
/-- L2.4 row 5: the report ends with the next step. -/
theorem test_pulse_ends :
    nextIs (step { State.reset with errValid := true, errCode := 0b11 })
      (fun t => !t.errValid && t.errCode == 0b00) = true := by decide +kernel
/-- L2.1 row 4: a full buffer with a junk front; the push of that edge is not taken. -/
theorem test_clockEdge_full_junk :
    (clockEdge (offering 0x10) (at_ (List.replicate 64 0) false idle)).buf.length = 63 := by decide +kernel
/-- L2.1 row 2: DROP and PUSH in one edge. -/
theorem test_clockEdge_drop_push :
    (clockEdge (offering 0x10) (at_ (List.replicate 63 0) false idle)).buf.getLast? = some 0x10 := by decide +kernel
/-- L1.7, in small: 48 zeros give 2 DROPs. -/
theorem test_reference_zeros :
    reference Config.reference (List.replicate 48 0) = ([.drop, .drop], List.replicate 46 0) := by decide +kernel
/-- L1.9: the scanner rests with 46 bytes. -/
theorem test_quiescent_46 : quiescent (at_ (List.replicate 46 0) false idle) = true := by decide +kernel
/-- R18: the observation shows no bus value without a record. -/
theorem test_observe : (observe (at_ [0x54] false idle)).presented = none := by decide +kernel
/-- R86: INGEST 00 11 from reset (L2.1 row 10). -/
theorem test_script_ingest :
    (runScript [.reset, .ingest [0x00, 0x11], .expect [.buf [0x00, 0x11], .events [], .outValid false, .inReady true]]).isOk
      = true := by decide +kernel
/-- Why a script stopped. -/
def stopOf (r : Except ScriptStop Bench) : Option ScriptStop :=
  match r with
  | .ok _ => none
  | .error e => some e

/-- R86, R87: CONFIG DEPTH=46 is refused; CONFIG after RESET and a command before RESET stop the script (R233). -/
theorem test_script_stops :
    stopOf (runScript [.config { lenFromByte1 := false, depth := 46 }]) = some (.refusal .configNotAdmitted) ∧
    stopOf (runScript [.reset, .config Config.reference]) = some .configAfterReset ∧
    stopOf (runScript [.push 0x54]) = some .beforeReset ∧
    stopOf (runScript [.reset, .expect [.bufLength 1]]) = some .expectFailed := by decide +kernel
/-- R86: ACCEPT with the last byte of FRAME_A still pending offers it, and takes one record. -/
theorem test_script_accept :
    (match runCommand .accept { Bench.running (at_ (frameA.take 46) false idle) with pending := frameA.drop 46 } with
      | .ok t => t.machine.trace == [.record recA, .acc] && !t.machine.pins.outReady && t.pending.isEmpty
      | .error _ => false) = true := by decide +kernel
/-- R86: ACCEPT with no frame to come keeps `out_ready` at 1. -/
theorem test_script_accept_waits :
    (match runCommand .accept (Bench.running (at_ [0x54] false idle)) with
      | .ok t => t.machine.pins.outReady && t.owed == 1
      | .error _ => false) = true := by decide +kernel

/-! ## The table's words as the first operation -/

/-- The match values of the port and scanner rows, and the decoder rows' with three bits, select their rows from reset. -/
theorem test_fetch_rows :
    [(8, 0x20), (8, 0x10), (8, 0x0C), (8, 0x08), (8, 0x03), (8, 0x02), (24, 0x00000), (24, 0x7542C), (24, 0x6542C),
      (3, 4), (3, 0), (3, 2), (3, 3)].all (fun w =>
        let s := State.reset.withFetchWord w.1 w.2
        select (turnNow s) (beginStep s) == decodeTableWord w.1 w.2) = true := by decide +kernel
/-- SCAN_DROP's match value leaves `ge_len = 0`; from a buffer of 47 bytes it is formed with `ge_len = 1`. -/
theorem test_fetch_scanDrop :
    (let s := State.reset.withFetchWord 24 0x40000
     select (turnNow s) (beginStep s)) = some (.scanDrop true false 0 0) := by decide +kernel

/-! ## Hypotheses that can be met -/

theorem witness_ResetSetsEveryElement : (at_ (frameA.take 30) true resetting).pins.rst = true := by decide

theorem witness_ResetValues : (at_ frameA true resetting).pins.rst = true := by decide

theorem witness_CancelEmptiesOnlyTheBuffer :
    let s := at_ (frameA.take 30) true cancelling
    s.pins.rst = false ∧ s.pins.cancel = true := by decide

/-- One byte below capacity. -/
theorem witness_PushAppendsTheOfferedByte :
    let s := at_ (List.replicate 63 0) false (offering 0x54)
    s.pins.rst = false ∧ s.pins.cancel = false ∧ s.pins.inValid = true ∧ s.buf.length < s.cfg.depth := by
  decide +kernel

/-- Exactly at capacity. -/
theorem witness_FullBufferStallsTheSource :
    let s := at_ (List.replicate 64 0) false (offering 0x10)
    s.pins.rst = false ∧ s.pins.cancel = false ∧ s.pins.inValid = true ∧ s.cfg.depth ≤ s.buf.length := by
  decide +kernel

theorem witness_AcceptHandsTheRecordOver :
    let s := at_ [] true idle
    s.pins.rst = false ∧ s.outValid = true ∧ s.pins.outReady = true := by decide

theorem witness_StalledSinkChangesNothing :
    let s := at_ [] true stalling
    s.pins.rst = false ∧ s.outValid = true ∧ s.pins.outReady = false := by decide

/-- The three ways on from a presented record: kept, accepted, reset. -/
theorem witness_PresentedRecordStaysUntilAccepted :
    (∃ t, step (scheduled .scanner idle frameA true) = .next t) ∧
    (∃ t, step (scheduled .output idle [] true) = .next t) ∧
    (∃ t, step (scheduled .input resetting [] true) = .next t) ∧
    (scheduled .output idle [] true).outValid = true := ⟨⟨_, rfl⟩, ⟨_, rfl⟩, ⟨_, rfl⟩, rfl⟩

theorem witness_UnpresentedBusValueIsUnobserved : (at_ frameA false idle).outValid = false := by decide

/-- Exactly 47 bytes. -/
theorem witness_DropRemovesOneByte :
    let s := at_ zeros47 true idle
    s.pins.rst = false ∧ s.pins.cancel = false ∧ minLen ≤ s.buf.length ∧ headerAt s.buf = false := by
  decide +kernel

theorem witness_GoodFrameIsPresented :
    let s := at_ frameA false idle
    s.pins.rst = false ∧ s.pins.cancel = false ∧ s.outValid = false ∧ minLen ≤ s.buf.length ∧
      headerAt s.buf = true ∧ decodeFrame s.cfg (s.buf.take (sliceLen s.cfg)) = .ok recA := by decide +kernel

theorem witness_BadFrameIsReported :
    let s := at_ frameABad false idle
    s.pins.rst = false ∧ s.pins.cancel = false ∧ s.outValid = false ∧ minLen ≤ s.buf.length ∧
      headerAt s.buf = true ∧ decodeFrame s.cfg (s.buf.take (sliceLen s.cfg)) = .err .checksumMismatch := by
  decide +kernel

/-- Both ways to rest: 46 bytes, and a frame held back by the output. -/
theorem witness_RestingScannerHoldsLittle :
    scannerRests (at_ (frameA.take 46) false idle) = true ∧ scannerRests (at_ frameA true idle) = true := by
  decide +kernel

theorem witness_LiteralConfigurationEmitsNoRecord :
    (let s := { State.resetWith literal with buf := frameA }
     s.cfg.lenFromByte1 = true ∧ s.pins.rst = false ∧ s.pins.cancel = false ∧ s.outValid = false ∧
      minLen ≤ s.buf.length ∧ headerAt s.buf = true) ∧
    ∃ t, step { State.resetWith literal with buf := frameA } = .next t := by
  refine ⟨by decide +kernel, _, rfl⟩

/-- A step that emits an event, in each configuration. -/
theorem witness_OutcomesInsideTheBlock :
    nextIs (step (at_ frameA false idle)) (fun t => t.trace == [.record recA]) = true ∧
    nextIs (step (at_ frameABad false idle)) (fun t => t.trace == [.err .checksumMismatch]) = true ∧
    nextIs (step { State.resetWith literal with buf := frameA }) (fun t => t.trace == [.err .tooShort]) = true := by
  decide +kernel

/-- Each row's hypotheses, the first two at the boundary of 47 bytes. -/
theorem witness_StandaloneDecodeRowsReturn :
    (decoding (frameA.take 46)).decIn.length < minLen ∧
    (minLen ≤ (decoding zeros47).decIn.length ∧ headerAt (decoding zeros47).decIn = false) ∧
    (minLen ≤ (decoding frameABad).decIn.length ∧ headerAt (decoding frameABad).decIn = true ∧
      checksumCalc (decoding frameABad).decIn ≠ checksumField (decoding frameABad).decIn) ∧
    (minLen ≤ (decoding frameA).decIn.length ∧ headerAt (decoding frameA).decIn = true ∧
      checksumCalc (decoding frameA).decIn = checksumField (decoding frameA).decIn) := by decide +kernel

theorem witness_DecodedFieldsComeFromTheFrame : decodeFrame Config.reference frameA = .ok recA := test_decodeFrame_A

theorem witness_FrameDecodesToItsRecord :
    Config.reference.lenFromByte1 = false ∧ recA.npts = 12 ∧ recA.points.length = 12 ∧ ([0x00] : List Byte) ≠ [] := by
  decide

theorem witness_AcceptedFrameIsItsRecordsEncoding :
    Config.reference.lenFromByte1 = false ∧ frameA.length = minLen ∧
      decodeFrame Config.reference frameA = .ok recA := by decide +kernel

theorem witness_ChecksumFieldChangeIsDetected :
    decodeFrame Config.reference frameA = .ok recA ∧ frameA.take (frameA.length - 2) ++ [0x4C, 0x10] ≠ frameA := by
  decide +kernel

/-- At both ends of the range: offsets 2 and 44. -/
theorem witness_PayloadByteChangeIsDetected :
    decodeFrame Config.reference frameA = .ok recA ∧
    (2 ≤ 2 ∧ 2 < frameA.length - 2 ∧ (0x00 : Byte) ≠ byteAt frameA 2) ∧
    (2 ≤ 44 ∧ 44 < frameA.length - 2 ∧ (0x00 : Byte) ≠ byteAt frameA 44) := by decide +kernel

theorem witness_ByteSwapIsNotDetected :
    decodeFrame Config.reference frameA = .ok recA ∧ 2 ≤ 2 ∧ 2 < frameA.length - 2 ∧ 2 ≤ 44 ∧
      44 < frameA.length - 2 := by decide +kernel

theorem witness_SumOfABlockFrameDoesNotWrap : frameA.length = minLen := by decide

/-- The last slot filled, and the last slot empty. -/
theorem witness_BusLayout :
    (11 < nptsMax ∧ 11 < recA.npts.toNat ∧ recA.points[11]? = some ⟨3750, 111⟩) ∧
    (11 < nptsMax ∧ ({ recA with npts := 11 } : Record).npts.toNat ≤ 11) := by decide

theorem witness_BusValueCarriesTheRecord :
    recA.wf = true ∧ ({ recA with npts := 11, points := recA.points.take 11 } : Record).wf = true := by decide

/-- Each group under `rst`, and under `cancel` alone. -/
theorem witness_PortWordSelectsItsRows : (at_ frameA true resetting).pins.rst = true := by decide

theorem witness_ScannerWordSelectsScanState :
    ((at_ frameA false cancelling).pins.rst = false ∧ (at_ frameA false cancelling).pins.cancel = true) ∧
    ((at_ frameA false idle).pins.rst = false ∧ (at_ frameA false idle).pins.cancel = false) := by decide

theorem witness_EncodedOperationDecodesToItself :
    (Instr.scanDrop true false 0x54 0x2D).wf = true ∧ (Instr.push true true 0x54).wf = true := by decide

theorem witness_DecodedBytesEncodeBack :
    decodeBytes .input [0x0C, 0xA5, 0x01] = .ok (.push false false 0xA5, [0x01]) := by decide

/-- A turn that selects an operation, and one that selects none. -/
theorem witness_StepRunsTheSelectedOperation :
    (scheduled .scanner idle frameA false).cfg.admitted = true ∧
    select (turnNow (scheduled .scanner idle frameA false)) (beginStep (scheduled .scanner idle frameA false)) =
      some .scanFrame ∧
    select (turnNow (scheduled .output idle [] false)) (beginStep (scheduled .output idle [] false)) = none := by
  decide +kernel

theorem witness_EveryStepCompletes : State.reset.cfg.admitted = true := by decide

/-- Executions that answer a next state, one of each shape the frame statements tell apart. -/
theorem witness_OperationsChangeOnlyTheirElements :
    (∃ t, exec (.push false true 0x54) (at_ [] false (offering 0x54)) = .next t) ∧
    (∃ t, exec (.scanDrop true false 0 0) (at_ zeros47 false idle) = .next t) ∧
    (∃ t, exec .scanFrame (at_ frameA false idle) = .next t) ∧
    (∃ t, exec .decOk (decoding frameA) = .next t) := ⟨⟨_, rfl⟩, ⟨_, rfl⟩, ⟨_, rfl⟩, ⟨_, rfl⟩⟩

theorem witness_OperationsOnTheBufferBytes :
    (∃ t, exec (.reset false false false false false) (at_ frameA false resetting) = .next t) ∧
    (∃ t, exec (.cancel false false false false) (at_ frameA false cancelling) = .next t) ∧
    (∃ t, exec .scanHoldOut (at_ frameA true idle) = .next t) := ⟨⟨_, rfl⟩, ⟨_, rfl⟩, ⟨_, rfl⟩⟩

/-- Each disabling condition, the length at 46 bytes. -/
theorem witness_DisabledOperationsChangeNothing :
    (at_ [] false idle).pins.rst = false ∧ (at_ [] false idle).pins.cancel = false ∧
    (at_ [] false idle).pins.inValid = false ∧ (at_ [] false idle).outValid = false ∧
    (at_ (frameA.take 46) false idle).buf.length < minLen ∧ headerAt (at_ zeros47 false idle).buf = false ∧
    headerAt (at_ frameA false idle).buf = true := by decide +kernel

theorem witness_InvHoldsAfterReset : literal.admitted = true := by decide

/-- The reset state meets the invariant, and steps. -/
theorem witness_EveryStepKeepsInv : Inv State.reset ∧ ∃ t, step State.reset = .next t :=
  ⟨{ admitted := by decide
     memory := by decide
     pulses := ⟨fun _ => rfl, fun _ => rfl⟩
     output := fun h => nomatch h
     fifo := ⟨[], rfl⟩
     epoch := Nat.le_refl 0 }, _, rfl⟩

theorem witness_BufferStaysWithinDepth :
    (∃ t, step (scheduled .input (offering 0x54) (List.replicate 63 0) false) = .next t) ∧
    (scheduled .input (offering 0x54) (List.replicate 63 0) false).buf.length ≤ 64 := ⟨⟨_, rfl⟩, by decide +kernel⟩

/-- A state part of the way through a stream: a frame buffered, nothing emitted. -/
theorem witness_EveryStepKeepsEventsOnReference :
    (let s := { at_ frameA false idle with stream := frameA }
     EpochInTrace s ∧ EventsFollowReference s) ∧
    ∃ t, step { at_ frameA false idle with stream := frameA } = .next t :=
  ⟨⟨Nat.le_refl 0, rfl⟩, _, rfl⟩

theorem witness_RunsEmitTheReferenceEvents :
    Config.reference.admitted = true ∧
    ∃ t, Host.Core.run Sys2Proof.core 1
      { State.resetWith Config.reference with sched := [{ turn := .input, pins := offering 0x54 }] } = .next t :=
  ⟨by decide, _, rfl⟩

theorem witness_EveryStepKeepsBytesAccounted :
    (let s := { at_ frameA false idle with stream := frameA }
     EpochInTrace s ∧ BytesAccounted s) ∧
    ∃ t, step { at_ frameA false idle with stream := frameA } = .next t :=
  ⟨⟨Nat.le_refl 0, rfl⟩, _, rfl⟩

theorem witness_JunkStreamIsDroppedTo46 : (0xFF : Byte) ≠ hdr0 ∧ (0x00 : Byte) ≠ hdr0 := by decide

/-- L1.5: the five junk bytes of JUNK5 before FRAME_A. -/
theorem witness_ScannerResynchronisesAfterJunk :
    Config.reference.lenFromByte1 = false ∧ recA.npts = 12 ∧ recA.points.length = 12 ∧
    ∀ k, k < ([0x00, 0x11, 0x22, 0x33, 0xFF] : List Byte).length →
      headerAt (([0x00, 0x11, 0x22, 0x33, 0xFF] ++ encodeFrame recA [0x00]).drop k) = false := by decide +kernel

/-- A DROP, an error and a quiet step. -/
theorem witness_PulsesReportTheStepJustTaken :
    nextIs (step (at_ zeros47 false idle)) (fun t => t.trace == [.drop]) = true ∧
    nextIs (step (at_ frameABad false idle)) (fun t => t.trace == [.err .checksumMismatch]) = true ∧
    nextIs (step State.reset) (fun t => t.trace.isEmpty && !t.errValid) = true := by decide +kernel

theorem witness_ConfigurationFixedAndTraceGrows : ∃ t, step (at_ zeros47 false idle) = .next t := ⟨_, rfl⟩

theorem witness_FrontOffsetCountsRemovedBytes :
    (∃ t, step (at_ frameA false idle) = .next t) ∧
    ∃ t, step (scheduled .input (offering 0x54) [] false) = .next t := ⟨⟨_, rfl⟩, _, rfl⟩

/-- A chunk that fills the buffer exactly. -/
theorem witness_IngestWithRoomAppendsTheChunk :
    (Bench.running (at_ (List.replicate 62 0) false idle)).started = true ∧
    (Bench.running (at_ (List.replicate 62 0) false idle)).machine.cfg.admitted = true ∧
    (Bench.running (at_ (List.replicate 62 0) false idle)).pending = [] ∧
    (Bench.running (at_ (List.replicate 62 0) false idle)).machine.buf.length + ([0x01, 0x02] : List Byte).length ≤
      (Bench.running (at_ (List.replicate 62 0) false idle)).machine.cfg.depth := by decide +kernel

theorem witness_DrainLeavesTheScannerAtRest :
    (Bench.running (at_ zeros47 false idle)).started = true ∧
    (Bench.running (at_ zeros47 false idle)).machine.cfg.admitted = true := by decide

/-- A frame to accept, and, in `test_script_accept_waits`, none. -/
theorem witness_AcceptCommandWaitsForOneAccept :
    (Bench.running (at_ frameA false idle)).started = true ∧
    (Bench.running (at_ frameA false idle)).machine.cfg.admitted = true ∧
    (Bench.running (at_ frameA false idle)).owed = 0 := by decide

end Sys2Proof.Tests
end

/-! PROOFS. A step is its selected operation, and the decoder of each group answers well-formed operations only (R81 to R83,
R120). -/

namespace Sys2Proof

/-! ## The decoders answer well-formed operations -/

theorem decodeInput_wf {p : BitVec 6} {d : Byte} {i : Instr} (h : decodeInput p d = .ok i) : i.wf = true := by
  unfold decodeInput at h
  repeat' split at h
  all_goals cases h <;> rfl

theorem decodeOutput_wf {p : BitVec 6} {i : Instr} (h : decodeOutput p = .ok i) : i.wf = true := by
  unfold decodeOutput at h
  repeat' split at h
  all_goals cases h <;> rfl

theorem decodeDecoder_wf (w : BitVec 3) : (decodeDecoder w).wf = true := by
  unfold decodeDecoder
  repeat' split
  all_goals rfl

/-- R82: a scanner word is its five fields. -/
theorem packScanWord_fields (w : BitVec 19) :
    packScanWord (w.getLsbD 18) (w.getLsbD 17) (w.getLsbD 16) (w.extractLsb' 8 8) (w.extractLsb' 0 8) = w := by
  apply BitVec.eq_of_getLsbD_eq
  intro i hi
  rw [packScanWord_getLsbD]
  rcases Nat.lt_or_ge i 8 with low | high
  · simp only [low, if_true, BitVec.getLsbD_extractLsb', decide_true, Bool.true_and, Nat.zero_add]
  · rcases Nat.lt_or_ge i 16 with mid | top
    · have here : i - 8 < 8 := by omega
      simp only [high.not_gt, mid, here, if_true, if_false, BitVec.getLsbD_extractLsb', decide_true, Bool.true_and,
        Nat.add_sub_cancel' high]
    · interval_cases i <;> rfl

/-- R82, row 1: only `ge_min` is looked at. -/
theorem rowSelects_waitMin (w : BitVec 19) : rowSelects w 0x40000 0x00000 = !w.getLsbD 18 := by
  have mask : (0x40000 : BitVec 19) = BitVec.twoPow 19 18 := rfl
  unfold rowSelects
  rw [mask, BitVec.and_twoPow]
  cases w.getLsbD 18 <;> rfl

/-- R82: what a scanner word with `ge_min = 0` decodes to. -/
theorem decodeScanner_pack_short (gl ov : Bool) (b0 b1 : Byte) :
    decodeScanner (packScanWord false gl ov b0 b1) = .scanWaitMin gl ov b0 b1 := by
  unfold decodeScanner
  rw [rowSelects_waitMin, packScanWord_b0, packScanWord_b1, packScanWord_getLsbD, packScanWord_getLsbD,
    packScanWord_getLsbD]
  rfl

/-- Row 5 of R82 is reached only by words with no header at the front, as `Instr.wf` asks of a drop. -/
theorem decodeScanner_wf (w : BitVec 19) : (decodeScanner w).wf = true := by
  rw [← packScanWord_fields w]
  generalize w.getLsbD 18 = gm, w.getLsbD 17 = gl, w.getLsbD 16 = ov, w.extractLsb' 8 8 = b0, w.extractLsb' 0 8 = b1
  cases gm with
  | false => rw [decodeScanner_pack_short]; rfl
  | true =>
    rw [decodeScanner_pack]
    split
    · cases gl <;> cases ov <;> rfl
    · next noHeader => simpa only [Instr.wf, Bool.not_eq_true', Bool.and_eq_false_iff, beq_eq_false_iff_ne, ne_eq,
        not_and_or] using noHeader

end Sys2Proof

namespace Sys2Proof.Machine

/-! ## The turn's operation -/

theorem selected_eq_some {d : Except DecodeReject Instr} {i : Instr} : selected d = some i ↔ d = .ok i := by
  cases d <;> simp [selected]

/-- Whatever the state and the turn, the selected operation is well formed. -/
theorem select_wf {t : Turn} {s : State} {i : Instr} (h : select t s = some i) : i.wf = true := by
  cases t with
  | input => exact decodeInput_wf (selected_eq_some.mp h)
  | output => exact decodeOutput_wf (selected_eq_some.mp h)
  | scanner =>
    simp only [select] at h
    split at h
    · exact decodeInput_wf (selected_eq_some.mp h)
    · split at h
      · cases h
      · cases h; exact decodeScanner_wf _
  | decoder f => cases h; exact decodeDecoder_wf _

theorem takeTurn_of_select_some {t : Turn} {s : State} {i : Instr} (h : select t s = some i) :
    takeTurn t s = exec i s := by
  simp only [takeTurn, h]

theorem takeTurn_of_select_none {t : Turn} {s : State} (h : select t s = none) : takeTurn t s = .next s := by
  simp only [takeTurn, h]

/-! ## The step -/

theorem step_of_admitted {s : State} (h : s.cfg.admitted = true) : step s = takeTurn (turnNow s) (beginStep s) := by
  simp only [step, h, if_true]

theorem beginStep_outRec_of_outValid {s : State} (h : s.outValid = true) : (beginStep s).outRec = s.outRec := by
  simp [h]

theorem beginStep_pins_of_cons {s : State} {slot : Slot} {rest : List Slot} (h : s.sched = slot :: rest) :
    (beginStep s).pins = slot.pins := by
  simp [h]

theorem turnNow_of_cons {s : State} {slot : Slot} {rest : List Slot} (h : s.sched = slot :: rest) :
    turnNow s = slot.turn := by
  simp only [turnNow, h]

end Sys2Proof.Machine

namespace Sys2Proof
open Machine

/-- Settles O39: the step unfolds to the turn's selection once, every selection is well formed (`select_wf`), and the begun
state's frame is that of `beginStep`. -/
theorem stepRunsTheSelectedOperation : Obligations.StepRunsTheSelectedOperation := by
  intro s admitted
  have turn := step_of_admitted admitted
  exact ⟨fun i hi => ⟨select_wf hi, turn.trans (takeTurn_of_select_some hi)⟩,
    fun hnone => turn.trans (takeTurn_of_select_none hnone),
    beginStep_buf s, beginStep_cfg s, beginStep_trace s, beginStep_outValid s, beginStep_outRec_of_outValid,
    beginStep_errValid s, beginStep_errCode s, beginStep_dropPulse s, beginStep_sched s,
    fun _ _ hs => ⟨beginStep_pins_of_cons hs, turnNow_of_cons hs⟩⟩

end Sys2Proof

/-! PROOFS. What every step keeps: the configuration, the trace, the buffer within its capacity and in order, the pulses and
the presented record (10_state.md). Each fact is a case analysis over `Effect`, said once, and then a fact about `step`. -/

namespace Sys2Proof.Machine

/-! ## in_ready and the reset state -/

theorem inReady_iff (s : State) :
    inReady s = true ↔ s.pins.rst = false ∧ s.pins.cancel = false ∧ s.buf.length < s.cfg.depth := by
  simp [inReady, and_assoc]

theorem execReset_of_rst {s : State} (h : s.pins.rst = true) : execReset s = .next (resetAll s) := by
  simp only [execReset, h, if_true]

theorem resetWith_inv {c : Config} (h : c.admitted = true) : Inv (State.resetWith c) where
  admitted := h
  memory := Memory.wf_nil c.depth
  pulses := ⟨fun _ => rfl, fun _ => rfl⟩
  output := fun presented => nomatch presented
  fifo := ⟨[], rfl⟩
  epoch := Nat.le_refl 0

/-! ## The unpresented bus value -/

theorem takeSlot_with_outRec (s : State) (v : BitVec 340) :
    takeSlot { s with outRec := v } = { takeSlot s with outRec := v } := by
  obtain ⟨cfg, buf, outValid, outRec, errValid, errCode, dropPulse, trace, consumed, pins, decIn, decOut, received,
    stream, epochStart, draws, sched⟩ := s
  cases sched with
  | nil => rfl
  | cons slot rest =>
    obtain ⟨turn, levels⟩ := slot
    cases turn <;> rfl

theorem tick_of_unpresented {s : State} (h : s.outValid = false) : tick s = drawOutRec (clearPulses s) :=
  if_neg (Bool.eq_false_iff.mp h)

/-- R182: what begins a step draws an unpresented bus value anew, whatever it was. -/
theorem tick_with_outRec {s : State} (h : s.outValid = false) (v : BitVec 340) :
    tick { s with outRec := v } = tick s :=
  calc tick { s with outRec := v }
    _ = drawOutRec (clearPulses { s with outRec := v }) := tick_of_unpresented h
    _ = drawOutRec (clearPulses s) := rfl
    _ = tick s := (tick_of_unpresented h).symm

theorem beginStep_with_outRec {s : State} (h : s.outValid = false) (v : BitVec 340) :
    beginStep { s with outRec := v } = beginStep s := by
  rw [beginStep, takeSlot_with_outRec, tick_with_outRec (by rw [takeSlot_outValid, h]), beginStep]

/-! ## The configuration -/

theorem Effect.cfg_eq {s t : State} (h : Effect s t) : t.cfg = s.cfg := by
  cases h <;> simp

theorem step_cfg {s t : State} (h : step s = .next t) : t.cfg = s.cfg := by
  rw [(step_effect h).2.cfg_eq, beginStep_cfg]

/-! ## The event of a step and the pulses that report it (R24, R25) -/

/-- No pulse is up, as after `tick`. -/
structure PulsesOff (s : State) : Prop where
  drop : s.dropPulse = false
  error : s.errValid = false
  code : s.errCode = 0

theorem beginStep_pulsesOff (s : State) : PulsesOff (beginStep s) :=
  ⟨beginStep_dropPulse s, beginStep_errValid s, beginStep_errCode s⟩

/-- R24, R25: the pulses of `t` report the event `e`, or that there was none. -/
structure PulsesReport (e : Option Event) (t : State) : Prop where
  drop : t.dropPulse = true ↔ e = some .drop
  error : t.errValid = true ↔ ∃ k, e = some (.err k)
  code : ∀ k, e = some (.err k) → t.errCode = errKindCode k
  noCode : t.errValid = false → t.errCode = 0

/-- No event, a record and an accept have no pulse. -/
theorem PulsesOff.report {t : State} (off : PulsesOff t) {e : Option Event} (notDrop : e ≠ some .drop)
    (notErr : ∀ k, e ≠ some (.err k)) : PulsesReport e t where
  drop := by simp [off.drop, notDrop]
  error := by simp [off.error, notErr]
  code k hk := absurd hk (notErr k)
  noCode _ := off.code

theorem errKindCode_ne_zero (k : ErrKind) : errKindCode k ≠ 0 := by
  cases k <;> decide

/-- R84(a): pulses that report a step have `err_code` 00 exactly without an error. -/
theorem PulsesReport.legal {e : Option Event} {t : State} (h : PulsesReport e t) : PulsesLegal t := by
  refine ⟨fun hcode => Bool.eq_false_iff.mpr fun hvalid => ?_, h.noCode⟩
  obtain ⟨k, hk⟩ := h.error.mp hvalid
  exact errKindCode_ne_zero k ((h.code k hk).symm.trans hcode)

/-- R126, R127: a dispatched frame is reported by its own event. -/
theorem dispatchFrame_pulses {s : State} (off : PulsesOff s) (d : DecodeResult) :
    PulsesReport (some (frameEvent d)) (dispatchFrame d s) := by
  cases d with
  | ok r =>
    have quiet : PulsesOff (presentRecord r s) := ⟨off.drop, off.error, off.code⟩
    exact quiet.report (by simp [frameEvent]) (by simp [frameEvent])
  | err k => constructor <;> simp [dispatchFrame, frameEvent, off.drop]

/-- An operation emits at most one event, and from quiet pulses it leaves the pulses that report it. -/
theorem Effect.reported {s t : State} (h : Effect s t) (off : PulsesOff s) :
    ∃ e : Option Event, t.trace = s.trace ++ e.toList ∧ PulsesReport e t := by
  have silent {u : State} (htrace : u.trace = s.trace) (hoff : PulsesOff u) :
      ∃ e : Option Event, u.trace = s.trace ++ e.toList ∧ PulsesReport e u :=
    ⟨none, by simp [htrace], hoff.report nofun nofun⟩
  cases h with
  | same => exact silent rfl off
  | reset => exact silent rfl ⟨rfl, rfl, rfl⟩
  | cancel => exact silent rfl ⟨rfl, rfl, rfl⟩
  | push => exact silent rfl ⟨off.drop, off.error, off.code⟩
  | decode => exact silent rfl ⟨off.drop, off.error, off.code⟩
  | accept =>
    have quiet : PulsesOff (handOver s) := ⟨off.drop, off.error, off.code⟩
    exact ⟨some .acc, handOver_trace s, quiet.report nofun nofun⟩
  | drop =>
    refine ⟨some .drop, rfl, ?_⟩
    constructor <;> simp [off.error, off.code]
  | frame =>
    refine ⟨_, dispatchFrame_trace _ _, dispatchFrame_pulses ?_ _⟩
    exact ⟨off.drop, off.error, off.code⟩

theorem step_reported {s t : State} (h : step s = .next t) :
    ∃ e : Option Event, t.trace = s.trace ++ e.toList ∧ PulsesReport e t := by
  simpa using (step_effect h).2.reported (beginStep_pulsesOff s)

/-! ## The buffer -/

/-- R51, R52: one byte appended with `in_ready = 1`, or bytes removed from the front and counted. -/
theorem Effect.buffer {s t : State} (h : Effect s t) :
    (∃ b, t.buf = s.buf ++ [b] ∧ t.consumed = s.consumed ∧ inReady s = true) ∨
    ∃ n ≤ s.buf.length, t.buf = s.buf.drop n ∧ t.consumed = s.consumed + n := by
  have kept {u : State} (hbuf : u.buf = s.buf) (hcount : u.consumed = s.consumed) :
      ∃ n ≤ s.buf.length, u.buf = s.buf.drop n ∧ u.consumed = s.consumed + n :=
    ⟨0, Nat.zero_le _, hbuf, hcount⟩
  cases h with
  | same => exact .inr (kept rfl rfl)
  | accept => exact .inr (kept rfl rfl)
  | decode => exact .inr (kept rfl rfl)
  | push b ready => exact .inl ⟨b, rfl, rfl, ready⟩
  | reset => exact .inr ⟨_, Nat.le_refl _, by simp, resetAll_consumed s⟩
  | cancel => exact .inr ⟨_, Nat.le_refl _, by simp, by simp⟩
  | drop long =>
    rw [minLen_eq] at long
    exact .inr ⟨1, by omega, rfl, rfl⟩
  | frame long => exact .inr ⟨sliceLen s.cfg, (sliceLen_le s.cfg).trans long, by simp, by simp⟩

theorem step_buffer {s t : State} (h : step s = .next t) :
    (∃ b, t.buf = s.buf ++ [b] ∧ t.consumed = s.consumed ∧ inReady (beginStep s) = true) ∨
    ∃ n ≤ s.buf.length, t.buf = s.buf.drop n ∧ t.consumed = s.consumed + n := by
  simpa using (step_effect h).2.buffer

/-- R33: a byte is appended only where there is room for it. -/
theorem step_buf_le_depth {s t : State} (h : step s = .next t) (room : s.buf.length ≤ s.cfg.depth) :
    t.buf.length ≤ t.cfg.depth := by
  rw [step_cfg h]
  obtain ⟨b, hbuf, -, ready⟩ | ⟨n, -, hbuf, -⟩ := step_buffer h
  · obtain ⟨-, -, hlt⟩ := (inReady_iff _).mp ready
    rw [beginStep_buf, beginStep_cfg] at hlt
    rw [hbuf, List.length_append, List.length_singleton]
    exact hlt
  · rw [hbuf, List.length_drop]
    omega

/-! ## The invariant, clause by clause -/

/-- Bytes that leave at the front join those gone before. -/
theorem fifoOrder_of_drop {s t : State} (h : FifoOrder s) (hstream : t.stream = s.stream) {n : Nat}
    (hbuf : t.buf = s.buf.drop n) : FifoOrder t := by
  obtain ⟨gone, hgone⟩ := h
  refine ⟨gone ++ s.buf.take n, ?_⟩
  rw [hstream, hbuf, hgone, List.append_assoc, List.take_append_drop]

theorem Effect.fifoOrder {s t : State} (h : Effect s t) (order : FifoOrder s) : FifoOrder t := by
  cases h with
  | same => exact order
  | accept => exact order
  | decode => exact order
  | reset => exact ⟨[], rfl⟩
  | cancel => exact ⟨[], rfl⟩
  | push b =>
    obtain ⟨gone, hgone⟩ := order
    exact ⟨gone, by simp [hgone]⟩
  | drop => exact fifoOrder_of_drop order rfl rfl
  | frame => exact fifoOrder_of_drop order (dispatchFrame_stream _ _) (dispatchFrame_buf _ _)

theorem Effect.epochInTrace {s t : State} (h : Effect s t) (mark : EpochInTrace s) : EpochInTrace t := by
  have longer {u : State} {e : Event} (hmark : u.epochStart = s.epochStart) (htrace : u.trace = s.trace ++ [e]) :
      EpochInTrace u := by
    unfold EpochInTrace at mark ⊢
    rw [hmark, htrace, List.length_append]
    omega
  cases h with
  | same => exact mark
  | push => exact mark
  | decode => exact mark
  | reset => exact Nat.le_refl _
  | cancel => exact Nat.le_refl _
  | accept => exact longer rfl rfl
  | drop => exact longer rfl rfl
  | frame => exact longer (dispatchFrame_epochStart _ _) (dispatchFrame_trace _ _)

/-- R126: what a frame presents is its record, and that is legal; an error presents nothing. -/
theorem dispatchFrame_outputLegal {s : State} (free : s.outValid = false) (c : Config) (f : List Byte) :
    OutputLegal (dispatchFrame (decodeFrame c f) s) := by
  intro presented
  cases hd : decodeFrame c f with
  | ok r =>
    obtain ⟨-, header, -, rfl⟩ := decodeFrame_ok hd
    exact ⟨parseRecord c f, parseRecord_wf header, rfl⟩
  | err k =>
    rw [hd] at presented
    exact absurd (free.symm.trans presented) Bool.false_ne_true

theorem Effect.outputLegal {s t : State} (h : Effect s t) (legal : OutputLegal s) : OutputLegal t := by
  cases h with
  | same => exact legal
  | push => exact legal
  | decode => exact legal
  | cancel => exact legal
  | drop => exact legal
  | reset => exact fun presented => nomatch presented
  | accept => exact fun presented => nomatch presented
  | frame _ _ free =>
    refine dispatchFrame_outputLegal ?_ _ _
    exact free

/-- A step's beginning keeps a presented bus value. -/
theorem beginStep_outputLegal {s : State} (legal : OutputLegal s) : OutputLegal (beginStep s) := by
  intro presented
  rw [beginStep_outValid] at presented
  rw [beginStep_outRec_of_outValid presented]
  exact legal presented

theorem beginStep_fifoOrder {s : State} (order : FifoOrder s) : FifoOrder (beginStep s) := by
  simpa only [FifoOrder, beginStep_stream, beginStep_buf] using order

theorem beginStep_epochInTrace {s : State} (mark : EpochInTrace s) : EpochInTrace (beginStep s) := by
  simpa only [EpochInTrace, beginStep_epochStart, beginStep_trace] using mark

theorem step_inv {s t : State} (inv : Inv s) (h : step s = .next t) : Inv t := by
  obtain ⟨admitted, effect⟩ := step_effect h
  obtain ⟨e, -, report⟩ := step_reported h
  exact {
    admitted := by rw [step_cfg h, admitted]
    memory := (Memory.wf_iff _ _).mpr (step_buf_le_depth h ((Memory.wf_iff _ _).mp inv.memory))
    pulses := report.legal
    output := effect.outputLegal (beginStep_outputLegal inv.output)
    fifo := effect.fifoOrder (beginStep_fifoOrder inv.fifo)
    epoch := effect.epochInTrace (beginStep_epochInTrace inv.epoch) }

end Sys2Proof.Machine

namespace Sys2Proof
open Machine

/-- Settles O46: the step is one effect on the begun state (`step_effect`), and each clause is kept by the step's beginning
and by every effect (`step_inv`). -/
theorem everyStepKeepsInv : Obligations.EveryStepKeepsInv := fun _ _ => step_inv

/-- Settles O10: the step begins by drawing the unpresented bus value anew (R182), so its old value is gone before the
operation is selected. -/
theorem unpresentedBusValueIsUnobserved : Obligations.UnpresentedBusValueIsUnobserved := by
  intro s v unpresented
  have begun := beginStep_with_outRec unpresented v
  have turn : turnNow { s with outRec := v } = turnNow s := rfl
  simp only [step, begun, turn]

/-- Settles O47: what a step can do to the buffer is `step_buffer`, and an append has room (`step_buf_le_depth`). -/
theorem bufferStaysWithinDepth : Obligations.BufferStaysWithinDepth := by
  refine ⟨Nat.zero_le _, fun s t h => ⟨?_, step_buf_le_depth h⟩⟩
  obtain ⟨b, hbuf, -, ready⟩ | ⟨n, -, hbuf, -⟩ := step_buffer h
  · exact .inl ⟨b, hbuf, ready⟩
  · exact .inr ⟨n, hbuf⟩

/-- Settles O54: a step begins with quiet pulses, so they report the one event of its operation (`Effect.reported`). -/
theorem pulsesReportTheStepJustTaken : Obligations.PulsesReportTheStepJustTaken := by
  intro s t h
  obtain ⟨e, htrace, report⟩ := step_reported h
  have emitted (x : Event) : t.trace = s.trace ++ [x] ↔ e = some x := by
    rw [htrace, List.append_cancel_left_eq, Option.toList_eq_singleton_iff]
  simp only [emitted]
  exact ⟨report.drop, report.error, report.code, report.noCode⟩

/-- Settles O55: `step_cfg`, and the at most one event of `step_reported`. -/
theorem configurationFixedAndTraceGrows : Obligations.ConfigurationFixedAndTraceGrows := by
  intro s t h
  refine ⟨step_cfg h, ?_⟩
  obtain ⟨e, htrace, -⟩ := step_reported h
  cases e with
  | none => exact .inl (htrace.trans (List.append_nil _))
  | some x => exact .inr ⟨x, htrace⟩

/-- Settles O56: an append leaves the counter, a removal of `n` bytes moves it by `n` (`step_buffer`). -/
theorem frontOffsetCountsRemovedBytes : Obligations.FrontOffsetCountsRemovedBytes := by
  intro s t h
  obtain ⟨b, hbuf, hcount, -⟩ | ⟨n, hn, hbuf, hcount⟩ := step_buffer h
  · exact ⟨hcount.ge, .inl ⟨hcount, by rw [hbuf, List.length_append, List.length_singleton]⟩⟩
  · refine ⟨by omega, .inr ?_⟩
    rw [hcount, hbuf, List.length_drop]
    omega

/-- Settles O2: the reset state by its definition, and RESET with `rst = 1` by the fields of `resetAll`. -/
theorem resetValues : Obligations.ResetValues := by
  refine ⟨fun c => ⟨rfl, rfl, rfl, rfl, rfl⟩, fun s hrst c v r ov o => ⟨resetAll s, execReset_of_rst hrst, ?_⟩⟩
  exact ⟨resetAll_buf s, resetAll_outValid s, resetAll_errValid s, resetAll_errCode s, resetAll_dropPulse s⟩

/-- Settles O6: R26's conjunction, bit by bit. -/
theorem inReadyFollowsRoom : Obligations.InReadyFollowsRoom := inReady_iff

/-- Settles O45: the reference configuration is one of the admitted ones. -/
theorem invHoldsAfterReset : Obligations.InvHoldsAfterReset :=
  ⟨resetWith_inv (by decide), fun _ => resetWith_inv⟩

end Sys2Proof

/-! PROOFS. The byte buffer (20_memory.md): a scanner at rest holds little, no access is out of range, and what each operation
does to every byte. -/

namespace Sys2Proof.Machine

/-! ## The scanner at rest -/

/-- R120: the scanner rests exactly where its state is neither of the two with an enabled step. -/
theorem scannerRests_iff (s : State) :
    scannerRests s = true ↔
      scanState s.cfg s.buf s.outValid ≠ .drop ∧ scanState s.cfg s.buf s.outValid ≠ .frame := by
  unfold scannerRests
  cases scanState s.cfg s.buf s.outValid <;> simp

/-- R123: with 47 bytes held, a header's declared length is held too. -/
theorem scanState_ne_waitLen (c : Config) (m : Memory) (v : Bool) : scanState c m v ≠ .waitLen := by
  unfold scanState
  split
  · nofun
  next long =>
    split
    · nofun
    next header =>
      have declared : declLen c (byteAt m 1) ≤ m.length := by
        rw [declLen_of_header (by simpa using header)]
        exact (sliceLen_le c).trans (Nat.le_of_not_lt long)
      rw [if_neg declared.not_gt]
      split <;> nofun

/-! ## No operation stops (R53, R209) -/

/-- An operation that only chooses between two next states completes. -/
theorem guarded_next_completes {c : Prop} [Decidable c] (enabled disabled : State) :
    ∃ t, (if c then .next enabled else .next disabled : Host.Outcome State Fault Refusal) = .next t := by
  split <;> exact ⟨_, rfl⟩

/-- The two operations that read or remove bytes have them, so no operation faults, and none is refused. -/
theorem exec_completes (i : Instr) (s : State) : ∃ t, exec i s = .next t := by
  cases i with
  | reset | cancel | push | accept => exact guarded_next_completes _ _
  | inStall | outStall | scanWaitMin | scanWaitLen | scanHoldOut => exact ⟨s, rfl⟩
  | scanFrame =>
    obtain ⟨-, -, -, -, removed⟩ | unchanged := execScanFrame_cases s
    · exact ⟨_, removed⟩
    · exact ⟨s, unchanged⟩
  | scanDrop =>
    obtain ⟨-, -, -, removed⟩ | unchanged := execScanDrop_cases s
    · exact ⟨_, removed⟩
    · exact ⟨s, unchanged⟩
  | decTooShort | decBadHeader | decCksumMismatch | decOk => exact guarded_next_completes _ _

theorem takeTurn_completes (turn : Turn) (s : State) : ∃ t, takeTurn turn s = .next t := by
  cases hsel : select turn s with
  | none => exact ⟨s, takeTurn_of_select_none hsel⟩
  | some i =>
    rw [takeTurn_of_select_some hsel]
    exact exec_completes i s

/-! ## The bytes of the buffer -/

/-- R53: nothing is held at offset `|buf|`. -/
theorem Memory.read_length (m : Memory) : Memory.read m m.length = none :=
  List.getElem?_eq_none le_rfl

/-- R52: a removal from the front moves every byte down. -/
theorem Memory.read_of_eq_drop {m m' : Memory} {n : Nat} (h : m' = m.drop n) (k : Nat) :
    m'.read k = m.read (k + n) := by
  rw [h, Memory.read_drop, Nat.add_comm]

/-- A buffer that is left as it was reads as it did. -/
theorem Memory.read_of_eq {m m' : Memory} (h : m' = m) (k : Nat) : m'.read k = m.read k := by
  rw [h]

/-- R122. -/
theorem execScanDrop_buf {s t : State} (h : execScanDrop s = .next t) : t.buf = s.buf.drop 1 ∨ t.buf = s.buf := by
  obtain ⟨-, -, -, removed⟩ | unchanged := execScanDrop_cases s
  · cases removed.symm.trans h
    exact .inl rfl
  · cases unchanged.symm.trans h
    exact .inr rfl

/-- R125. -/
theorem execScanFrame_buf {s t : State} (h : execScanFrame s = .next t) :
    t.buf = s.buf.drop (sliceLen s.cfg) ∨ t.buf = s.buf := by
  obtain ⟨-, -, -, -, removed⟩ | unchanged := execScanFrame_cases s
  · cases removed.symm.trans h
    exact .inl (dispatchFrame_buf _ _)
  · cases unchanged.symm.trans h
    exact .inr rfl

/-- R150: a standalone Decode call reads no byte of the buffer and writes none. -/
theorem execDec_buf {i : Instr} (hi : i.group = .decoder) {s t : State} (h : exec i s = .next t) : t.buf = s.buf := by
  obtain ⟨d, rfl⟩ := execDec_next hi h
  rfl

end Sys2Proof.Machine

namespace Sys2Proof
open Machine

/-- Settles O15: a scanner that neither drops nor frames (`scannerRests_iff`) holds fewer than 47 bytes, or a header with its
whole slice under a presented record; WAIT_LEN is the state of no buffer (`scanState_ne_waitLen`). -/
theorem restingScannerHoldsLittle : Obligations.RestingScannerHoldsLittle := by
  intro s rests
  refine ⟨?_, scanState_ne_waitLen _ _ _⟩
  obtain ⟨notDrop, notFrame⟩ := (scannerRests_iff s).mp rests
  rw [ne_eq, scanState_drop_iff] at notDrop
  rw [ne_eq, scanState_frame_iff] at notFrame
  rcases Nat.lt_or_ge s.buf.length minLen with short | long
  · exact .inl (Nat.le_sub_one_of_lt short)
  · have header : headerAt s.buf = true := Bool.eq_true_of_not_eq_false fun noHeader =>
      notDrop ⟨long, noHeader⟩
    have presented : s.outValid = true := Bool.eq_true_of_not_eq_false fun free => notFrame ⟨long, header, free⟩
    exact .inr ⟨header, (sliceLen_le s.cfg).trans long, presented⟩

/-- Settles O41: an admitted step is its turn, and a turn is no operation or one that completes (`exec_completes`). -/
theorem everyStepCompletes : Obligations.EveryStepCompletes := by
  intro s admitted
  rw [StepCompletes, step_of_admitted admitted]
  exact takeTurn_completes _ _

/-- Settles O43: what each operation does to the buffer as a list, read byte by byte. -/
theorem operationsOnTheBufferBytes : Obligations.OperationsOnTheBufferBytes := by
  intro i s t h
  cases i with
  | push ov o b =>
    obtain ⟨-, -, rfl⟩ | rfl := execPush_next h
    · exact ⟨Memory.read_append_of_ne s.buf b, .inl (Memory.read_append_end s.buf b)⟩
    · exact ⟨fun _ _ => rfl, .inr (Memory.read_length _)⟩
  | reset =>
    obtain ⟨-, rfl⟩ | ⟨-, rfl⟩ := execReset_next h
    · exact .inl fun _ => rfl
    · exact .inr fun _ => rfl
  | cancel =>
    obtain ⟨-, -, rfl⟩ | rfl := execCancel_next h
    · exact .inl fun _ => rfl
    · exact .inr fun _ => rfl
  | accept =>
    obtain ⟨-, -, -, rfl⟩ | rfl := execAccept_next h
    · exact fun _ => rfl
    · exact fun _ => rfl
  | inStall | outStall | scanWaitMin | scanWaitLen | scanHoldOut =>
    cases h
    exact fun _ => rfl
  | scanFrame => exact (execScanFrame_buf h).imp Memory.read_of_eq_drop Memory.read_of_eq
  | scanDrop => exact (execScanDrop_buf h).imp Memory.read_of_eq_drop Memory.read_of_eq
  | decTooShort | decBadHeader | decCksumMismatch | decOk =>
    exact Memory.read_of_eq (execDec_buf rfl h)

end Sys2Proof

/-! PROOFS. The selection words of the ports, the scanner and the decoder (30_encoding.md section 4): which row each word
selects, and that the rows and their encodings determine each other. -/

namespace Sys2Proof

/-! ## The port word (R81) -/

section PortWord

variable (rst cancel inValid inReady outValid outReady : Bool)

theorem rowSelects_reset :
    rowSelects (packPortWord rst cancel inValid inReady outValid outReady) 0x20 0x20 = rst := by
  revert rst cancel inValid inReady outValid outReady; decide

theorem rowSelects_cancel :
    rowSelects (packPortWord rst cancel inValid inReady outValid outReady) 0x30 0x10 = (!rst && cancel) := by
  revert rst cancel inValid inReady outValid outReady; decide

theorem rowSelects_push :
    rowSelects (packPortWord rst cancel inValid inReady outValid outReady) 0x3C 0x0C =
      (!rst && !cancel && inValid && inReady) := by
  revert rst cancel inValid inReady outValid outReady; decide

theorem rowSelects_inStall :
    rowSelects (packPortWord rst cancel inValid inReady outValid outReady) 0x3C 0x08 =
      (!rst && !cancel && inValid && !inReady) := by
  revert rst cancel inValid inReady outValid outReady; decide

theorem rowSelects_accept :
    rowSelects (packPortWord rst cancel inValid inReady outValid outReady) 0x23 0x03 =
      (!rst && outValid && outReady) := by
  revert rst cancel inValid inReady outValid outReady; decide

theorem rowSelects_outStall :
    rowSelects (packPortWord rst cancel inValid inReady outValid outReady) 0x23 0x02 =
      (!rst && outValid && !outReady) := by
  revert rst cancel inValid inReady outValid outReady; decide

/-- R81: which signal each bit of the port word carries. -/
theorem packPortWord_bits :
    let p := packPortWord rst cancel inValid inReady outValid outReady
    p.getLsbD 4 = cancel ∧ p.getLsbD 3 = inValid ∧ p.getLsbD 2 = inReady ∧ p.getLsbD 1 = outValid ∧
      p.getLsbD 0 = outReady := by
  revert rst cancel inValid inReady outValid outReady; decide

/-- R81, input group: the row a port word selects. -/
theorem decodeInput_pack (d : Byte) :
    decodeInput (packPortWord rst cancel inValid inReady outValid outReady) d =
      if rst then .ok (.reset cancel inValid inReady outValid outReady)
      else if cancel then .ok (.cancel inValid inReady outValid outReady)
      else if inValid then
        (if inReady then .ok (.push outValid outReady d) else .ok (.inStall outValid outReady d))
      else .error .noInputOperation := by
  obtain ⟨b4, b3, b2, b1, b0⟩ := packPortWord_bits rst cancel inValid inReady outValid outReady
  unfold decodeInput
  rw [rowSelects_reset, rowSelects_cancel, rowSelects_push, rowSelects_inStall, b4, b3, b2, b1, b0]
  cases rst with
  | true => rfl
  | false =>
    cases cancel with
    | true => rfl
    | false => cases inValid <;> cases inReady <;> rfl

/-- R81, output group: the row a port word selects. -/
theorem decodeOutput_pack :
    decodeOutput (packPortWord rst cancel inValid inReady outValid outReady) =
      if rst then .ok (.reset cancel inValid inReady outValid outReady)
      else if outValid then
        (if outReady then .ok (.accept cancel inValid inReady) else .ok (.outStall cancel inValid inReady))
      else .error .noOutputOperation := by
  obtain ⟨b4, b3, b2, b1, b0⟩ := packPortWord_bits rst cancel inValid inReady outValid outReady
  unfold decodeOutput
  rw [rowSelects_reset, rowSelects_accept, rowSelects_outStall, b4, b3, b2, b1, b0]
  cases rst with
  | true => rfl
  | false => cases outValid <;> cases outReady <;> rfl

end PortWord

/-- R81: a port word is its six bits. -/
theorem packPortWord_fields (p : BitVec 6) :
    packPortWord (p.getLsbD 5) (p.getLsbD 4) (p.getLsbD 3) (p.getLsbD 2) (p.getLsbD 1) (p.getLsbD 0) = p := by
  revert p; decide

/-- Every port word is packed from some six bits. -/
theorem exists_packPortWord (p : BitVec 6) : ∃ rst c v r ov o, p = packPortWord rst c v r ov o :=
  ⟨_, _, _, _, _, _, (packPortWord_fields p).symm⟩

/-! ## The decoder word (R83) -/

theorem decodeDecoder_pack (short hdrOk cksEq : Bool) :
    decodeDecoder (packDecWord short hdrOk cksEq) =
      if short then .decTooShort hdrOk cksEq
      else if hdrOk then (if cksEq then .decOk else .decCksumMismatch)
      else .decBadHeader cksEq := by
  revert short hdrOk cksEq; decide

/-! ## A decoded row's word is the word decoded -/

theorem encodePort_decodeInput {p : BitVec 6} {d : Byte} {i : Instr} (h : decodeInput p d = .ok i) :
    encodePort i = p := by
  obtain ⟨rst, c, v, r, ov, o, rfl⟩ := exists_packPortWord p
  rw [decodeInput_pack] at h
  cases rst with
  | true => cases h; rfl
  | false =>
    cases c with
    | true => cases h; rfl
    | false => cases v <;> cases r <;> cases h <;> rfl

theorem encodePort_decodeOutput {p : BitVec 6} {i : Instr} (h : decodeOutput p = .ok i) : encodePort i = p := by
  obtain ⟨rst, c, v, r, ov, o, rfl⟩ := exists_packPortWord p
  rw [decodeOutput_pack] at h
  cases rst with
  | true => cases h; rfl
  | false => cases ov <;> cases o <;> cases h <;> rfl

/-- R82: `decodeScanner` drops no bit of its word. -/
theorem encodeScanner_decodeScanner (w : BitVec 19) : encodeScanner (decodeScanner w) = w := by
  rw [← packScanWord_fields w]
  generalize w.getLsbD 18 = gm, w.getLsbD 17 = gl, w.getLsbD 16 = ov, w.extractLsb' 8 8 = b0, w.extractLsb' 0 8 = b1
  cases gm with
  | false => rw [decodeScanner_pack_short]; rfl
  | true =>
    rw [decodeScanner_pack]
    split
    next header =>
      obtain ⟨rfl, rfl⟩ := header
      cases gl <;> cases ov <;> rfl
    next => rfl

theorem encodeDecoder_decodeDecoder (w : BitVec 3) : encodeDecoder (decodeDecoder w) = w := by
  revert w; decide

/-! ## The groups of the decoded rows -/

theorem decodeInput_group {p : BitVec 6} {d : Byte} {i : Instr} (h : decodeInput p d = .ok i) : i.group = .input := by
  unfold decodeInput at h
  repeat' split at h
  all_goals cases h <;> rfl

/-- R81: the output group decodes to RESET, or to a row of its own, none of which has an operand. -/
theorem decodeOutput_group {p : BitVec 6} {i : Instr} (h : decodeOutput p = .ok i) :
    (i.group = .input ∨ i.group = .output) ∧ operandBytes i = [] := by
  unfold decodeOutput at h
  repeat' split at h
  all_goals cases h <;> simp [Instr.group, operandBytes]

theorem decodeScanner_group (w : BitVec 19) : (decodeScanner w).group = .scanner := by
  unfold decodeScanner
  repeat' split
  all_goals rfl

theorem decodeDecoder_group (w : BitVec 3) : (decodeDecoder w).group = .decoder := by
  unfold decodeDecoder
  repeat' split
  all_goals rfl

/-! ## The encoding of each group -/

theorem encode_port {i : Instr} (h : i.group = .input ∨ i.group = .output) :
    encode i = (encodePort i).setWidth 8 :: operandBytes i := by
  rcases h with h | h <;> simp only [encode, h]

theorem encode_scanner {i : Instr} (h : i.group = .scanner) :
    encode i = [((encodeScanner i).setWidth 24).extractLsb' 0 8, ((encodeScanner i).setWidth 24).extractLsb' 8 8,
      ((encodeScanner i).setWidth 24).extractLsb' 16 8] := by
  simp only [encode, h]

theorem encode_decoder {i : Instr} (h : i.group = .decoder) : encode i = [(encodeDecoder i).setWidth 8] := by
  simp only [encode, h]

/-! ## A well-formed row is what its word decodes to -/

theorem decodeInput_encodePort {i : Instr} (h : i.group = .input) :
    decodeInput (encodePort i) ((operandBytes i).headD 0) = .ok i := by
  cases i with
  | reset | cancel | push | inStall => simp [encodePort, decodeInput_pack, operandBytes]
  | _ => cases h

theorem decodeOutput_encodePort {i : Instr} (h : i.group = .output) : decodeOutput (encodePort i) = .ok i := by
  cases i with
  | accept | outStall => simp [encodePort, decodeOutput_pack]
  | _ => cases h

theorem decodeScanner_encodeScanner {i : Instr} (h : i.group = .scanner) (wf : i.wf = true) :
    decodeScanner (encodeScanner i) = i := by
  cases i with
  | scanWaitMin gl ov b0 b1 => exact decodeScanner_pack_short gl ov b0 b1
  | scanWaitLen ov => exact (decodeScanner_pack false ov hdr0 hdr1).trans (if_pos ⟨rfl, rfl⟩)
  | scanHoldOut => exact (decodeScanner_pack true true hdr0 hdr1).trans (if_pos ⟨rfl, rfl⟩)
  | scanFrame => exact (decodeScanner_pack true false hdr0 hdr1).trans (if_pos ⟨rfl, rfl⟩)
  | scanDrop gl ov b0 b1 =>
    have noHeader : ¬(b0 = hdr0 ∧ b1 = hdr1) := by
      simpa only [Instr.wf, Bool.not_eq_true', Bool.and_eq_false_iff, beq_eq_false_iff_ne, ne_eq, not_and_or] using wf
    exact (decodeScanner_pack gl ov b0 b1).trans (if_neg noHeader)
  | _ => cases h

theorem decodeDecoder_encodeDecoder {i : Instr} (h : i.group = .decoder) : decodeDecoder (encodeDecoder i) = i := by
  cases i with
  | decTooShort | decBadHeader | decCksumMismatch | decOk => simp [encodeDecoder, decodeDecoder_pack]
  | _ => cases h

/-! ## Words in whole bytes -/

/-- The bits above a widened word are 0. -/
theorem extractLsb'_setWidth_above {n : Nat} (m k : Nat) (w : BitVec n) :
    (w.setWidth m).extractLsb' n k = 0 := by
  apply BitVec.eq_of_getLsbD_eq
  intro i _
  simp

/-- Zero bits above the word are the ones that widening puts back. -/
theorem setWidth_setWidth_of_above_eq_zero {m : Nat} (n k : Nat) (hm : m = n + k) {x : BitVec m}
    (h : x.extractLsb' n k = 0) : (x.setWidth n).setWidth m = x := by
  apply BitVec.eq_of_getLsbD_eq
  intro i hi
  rw [BitVec.getLsbD_setWidth, BitVec.getLsbD_setWidth]
  rcases Nat.lt_or_ge i n with low | high
  · simp [hi, low]
  · have bit := congrArg (fun y => BitVec.getLsbD y (i - n)) h
    have inside : i - n < k := by omega
    simp only [BitVec.getLsbD_extractLsb', inside, decide_true, Bool.true_and, Nat.add_sub_cancel' high] at bit
    simp [high.not_gt, bit]

/-- The three bytes of a scanner word, put together again with the third the most significant. -/
theorem bytes_append (w : BitVec 24) :
    w.extractLsb' 16 8 ++ w.extractLsb' 8 8 ++ w.extractLsb' 0 8 = w := by
  apply BitVec.eq_of_getLsbD_eq
  intro i hi
  simp only [BitVec.getLsbD_append, BitVec.getLsbD_extractLsb']
  rcases Nat.lt_or_ge i 8 with low | high
  · simp [low]
  · rcases Nat.lt_or_ge (i - 8) 8 with mid | top
    · simp [high.not_gt, mid, Nat.add_sub_cancel' high]
    · have inside : i - 8 - 8 < 8 := by omega
      have back : 16 + (i - 8 - 8) = i := by omega
      simp [high.not_gt, top.not_gt, inside, back]

/-- Each byte of three put together. -/
theorem extractLsb'_append_bytes (x0 x1 x2 : Byte) :
    (x2 ++ x1 ++ x0).extractLsb' 0 8 = x0 ∧ (x2 ++ x1 ++ x0).extractLsb' 8 8 = x1 ∧
      (x2 ++ x1 ++ x0).extractLsb' 16 8 = x2 := by
  refine ⟨?_, ?_, ?_⟩ <;> apply BitVec.eq_of_getLsbD_eq <;> intro i hi <;>
    simp only [BitVec.getLsbD_extractLsb', BitVec.getLsbD_append]
  · simp [hi]
  · simp [hi]
  · have high : 16 + i - 8 - 8 = i := by omega
    have above : ¬ 16 + i < 8 := by omega
    have above' : ¬ 16 + i - 8 < 8 := by omega
    simp [hi, high, above, above']

/-- The bits above a scanner word stand in its third byte. -/
theorem extractLsb'_append_above (x0 x1 x2 : Byte) :
    (x2 ++ x1 ++ x0).extractLsb' 19 5 = x2.extractLsb' 3 5 := by
  apply BitVec.eq_of_getLsbD_eq
  intro i hi
  simp only [BitVec.getLsbD_extractLsb', BitVec.getLsbD_append]
  have here : 19 + i - 8 - 8 = 3 + i := by omega
  have above : ¬ 19 + i < 8 := by omega
  have above' : ¬ 19 + i - 8 < 8 := by omega
  simp [here, above, above']

/-! ## Decoding bytes, group by group -/

theorem takeOperand_operandBytes (i : Instr) (rest : List Byte) :
    takeOperand i (operandBytes i ++ rest) = .ok (i, rest) := by
  cases i <;> rfl

/-- The operand byte that is taken off is the one the operation was decoded with. -/
theorem takeOperand_ok {i j : Instr} {bs rest : List Byte} (h : takeOperand i bs = .ok (j, rest))
    (operand : operandBytes i = [] ∨ operandBytes i = [bs.headD 0]) : j = i ∧ bs = operandBytes i ++ rest := by
  cases i with
  | push ov o b | inStall ov o b =>
    cases bs with
    | nil => cases h
    | cons x xs =>
      cases h
      obtain none | here := operand
      · cases none
      · exact ⟨rfl, congrArg (· ++ rest) here.symm⟩
  | _ => cases h; exact ⟨rfl, rfl⟩

theorem decodeInput_operandBytes {p : BitVec 6} {d : Byte} {i : Instr} (h : decodeInput p d = .ok i) :
    operandBytes i = [] ∨ operandBytes i = [d] := by
  unfold decodeInput at h
  repeat' split at h
  all_goals cases h <;> simp [operandBytes]

/-- A port word stands in one byte, and `in_data` after it for the two rows that have it. -/
theorem decodeBytes_input_iff {bs rest : List Byte} {i : Instr} :
    decodeBytes .input bs = .ok (i, rest) ↔ ∃ p : BitVec 6,
      bs = p.setWidth 8 :: (operandBytes i ++ rest) ∧ decodeInput p ((operandBytes i ++ rest).headD 0) = .ok i := by
  constructor
  · intro h
    cases bs with
    | nil => cases h
    | cons x tail =>
      simp only [decodeBytes, bne_iff_ne, ne_eq, ite_not] at h
      split at h
      next above =>
        split at h
        · cases h
        next j decoded =>
          obtain ⟨rfl, rfl⟩ := takeOperand_ok h (decodeInput_operandBytes decoded)
          exact ⟨_, congrArg (· :: _) (setWidth_setWidth_of_above_eq_zero 6 2 rfl above).symm, decoded⟩
      · cases h
  · rintro ⟨p, rfl, decoded⟩
    simp only [decodeBytes, extractLsb'_setWidth_above, bne_self_eq_false, Bool.false_eq_true, if_false,
      BitVec.setWidth_setWidth_of_le p (by decide : 6 ≤ 8), BitVec.setWidth_eq, decoded, takeOperand_operandBytes]

theorem decodeBytes_output_iff {bs rest : List Byte} {i : Instr} :
    decodeBytes .output bs = .ok (i, rest) ↔ ∃ p : BitVec 6, bs = p.setWidth 8 :: rest ∧ decodeOutput p = .ok i := by
  constructor
  · intro h
    cases bs with
    | nil => cases h
    | cons x tail =>
      simp only [decodeBytes, bne_iff_ne, ne_eq, ite_not] at h
      split at h
      next above =>
        split at h
        · cases h
        next decoded =>
          cases h
          exact ⟨_, congrArg (· :: _) (setWidth_setWidth_of_above_eq_zero 6 2 rfl above).symm, decoded⟩
      · cases h
  · rintro ⟨p, rfl, decoded⟩
    simp only [decodeBytes, extractLsb'_setWidth_above, bne_self_eq_false, Bool.false_eq_true, if_false,
      BitVec.setWidth_setWidth_of_le p (by decide : 6 ≤ 8), BitVec.setWidth_eq, decoded]

/-- A scanner word stands in three bytes, the least significant first. -/
theorem decodeBytes_scanner_iff {bs rest : List Byte} {i : Instr} :
    decodeBytes .scanner bs = .ok (i, rest) ↔ ∃ w : BitVec 19,
      bs = [(w.setWidth 24).extractLsb' 0 8, (w.setWidth 24).extractLsb' 8 8, (w.setWidth 24).extractLsb' 16 8] ++ rest ∧
        decodeScanner w = i := by
  constructor
  · intro h
    match bs, h with
    | x0 :: x1 :: x2 :: tail, h =>
      simp only [decodeBytes, bne_iff_ne, ne_eq, ite_not] at h
      split at h
      next above =>
        cases h
        rw [← extractLsb'_append_above x0 x1 x2] at above
        refine ⟨_, ?_, rfl⟩
        rw [setWidth_setWidth_of_above_eq_zero 19 5 rfl above]
        obtain ⟨low, mid, top⟩ := extractLsb'_append_bytes x0 x1 x2
        rw [low, mid, top]
        rfl
      · cases h
  · rintro ⟨w, rfl, rfl⟩
    have above : ((w.setWidth 24).extractLsb' 16 8).extractLsb' 3 5 = 0 := by
      rw [← extractLsb'_append_above, bytes_append, extractLsb'_setWidth_above]
    simp only [decodeBytes, List.cons_append, List.nil_append, above, bne_self_eq_false, Bool.false_eq_true, if_false,
      bytes_append, BitVec.setWidth_setWidth_of_le w (by decide : 19 ≤ 24), BitVec.setWidth_eq]

theorem decodeBytes_decoder_iff {bs rest : List Byte} {i : Instr} :
    decodeBytes .decoder bs = .ok (i, rest) ↔ ∃ w : BitVec 3, bs = w.setWidth 8 :: rest ∧ decodeDecoder w = i := by
  constructor
  · intro h
    cases bs with
    | nil => cases h
    | cons x tail =>
      simp only [decodeBytes, bne_iff_ne, ne_eq, ite_not] at h
      split at h
      next above =>
        cases h
        exact ⟨_, congrArg (· :: _) (setWidth_setWidth_of_above_eq_zero 3 5 rfl above).symm, rfl⟩
      · cases h
  · rintro ⟨w, rfl, rfl⟩
    simp only [decodeBytes, extractLsb'_setWidth_above, bne_self_eq_false, Bool.false_eq_true, if_false,
      BitVec.setWidth_setWidth_of_le w (by decide : 3 ≤ 8), BitVec.setWidth_eq]

/-- Settles O36: each group's bytes are its word's (`decodeBytes_input_iff` and its like), and the word of a well-formed row
selects that row. -/
theorem encodedOperationDecodesToItself : Obligations.EncodedOperationDecodesToItself := by
  intro i wf
  cases group : i.group with
  | input =>
    refine decodeBytes_input_iff.mpr ⟨encodePort i, ?_, ?_⟩
    · rw [encode_port (.inl group), List.append_nil]
    · rw [List.append_nil, decodeInput_encodePort group]
  | output =>
    have decoded := decodeOutput_encodePort group
    refine decodeBytes_output_iff.mpr ⟨encodePort i, ?_, decoded⟩
    rw [encode_port (.inr group), (decodeOutput_group decoded).2]
  | scanner =>
    exact decodeBytes_scanner_iff.mpr ⟨encodeScanner i, encode_scanner group, decodeScanner_encodeScanner group wf⟩
  | decoder =>
    exact decodeBytes_decoder_iff.mpr ⟨encodeDecoder i, encode_decoder group, decodeDecoder_encodeDecoder group⟩

/-- Settles O37: in each group the row decoded is well formed and keeps every bit of its word, so its encoding is the word's
bytes again. -/
theorem decodedBytesEncodeBack : Obligations.DecodedBytesEncodeBack := by
  intro g bs rest i h
  cases g with
  | input =>
    obtain ⟨p, rfl, decoded⟩ := decodeBytes_input_iff.mp h
    refine ⟨decodeInput_wf decoded, ?_⟩
    rw [encode_port (.inl (decodeInput_group decoded)), encodePort_decodeInput decoded, List.cons_append]
  | output =>
    obtain ⟨p, rfl, decoded⟩ := decodeBytes_output_iff.mp h
    obtain ⟨group, noOperand⟩ := decodeOutput_group decoded
    refine ⟨decodeOutput_wf decoded, ?_⟩
    rw [encode_port group, encodePort_decodeOutput decoded, noOperand, List.singleton_append]
  | scanner =>
    obtain ⟨w, rfl, rfl⟩ := decodeBytes_scanner_iff.mp h
    refine ⟨decodeScanner_wf w, ?_⟩
    rw [encode_scanner (decodeScanner_group w), encodeScanner_decodeScanner]
  | decoder =>
    obtain ⟨w, rfl, rfl⟩ := decodeBytes_decoder_iff.mp h
    refine ⟨decodeDecoder_wf w, ?_⟩
    rw [encode_decoder (decodeDecoder_group w), encodeDecoder_decodeDecoder, List.singleton_append]

end Sys2Proof

namespace Sys2Proof.Machine

theorem inReady_of_free {s : State} (rst : s.pins.rst = false) (cancel : s.pins.cancel = false) :
    inReady s = decide (s.buf.length < s.cfg.depth) := by
  simp only [inReady, rst, cancel, Bool.not_false, Bool.true_and]

/-- R81: with `rst = 1` the port word is a RESET. -/
theorem decodeInput_portWord_of_rst {s : State} (rst : s.pins.rst = true) (d : Byte) :
    decodeInput (portWord s) d =
      .ok (.reset s.pins.cancel s.pins.inValid (inReady s) s.outValid s.pins.outReady) := by
  rw [portWord, decodeInput_pack, rst, if_pos rfl]

/-- R123: with 47 bytes held, the slice of a header at the front is held. -/
theorem geLen_of_header {c : Config} {m : Memory} (long : minLen ≤ m.length) (header : headerAt m = true) :
    geLen c m = true := by
  rw [geLen, declLen_of_header header]
  exact decide_eq_true ((sliceLen_le c).trans long)

/-- R29, behind a header: only the output register decides. -/
theorem scanState_of_header {c : Config} {m : Memory} {v : Bool} (long : minLen ≤ m.length)
    (header : headerAt m = true) : scanState c m v = if v then .holdOut else .frame := by
  have declared : declLen c (byteAt m 1) ≤ m.length := of_decide_eq_true (geLen_of_header long header)
  simp only [scanState, long.not_gt, header, declared.not_gt, if_false, Bool.not_true, Bool.false_eq_true]

/-- R82: the row of the scanner word is the one of `scan_state`. -/
theorem decodeScanner_scanWord_short {s : State} (short : s.buf.length < minLen) :
    decodeScanner (scanWord s) = .scanWaitMin false s.outValid 0 0 := by
  rw [scanWord, geMin, decide_eq_false short.not_ge, if_neg Bool.false_ne_true, decodeScanner_pack_short]

theorem decodeScanner_scanWord_long {s : State} (long : minLen ≤ s.buf.length) :
    decodeScanner (scanWord s) =
      if byteAt s.buf 0 = hdr0 ∧ byteAt s.buf 1 = hdr1 then
        (if geLen s.cfg s.buf then (if s.outValid then .scanHoldOut else .scanFrame) else .scanWaitLen s.outValid)
      else .scanDrop (geLen s.cfg s.buf) s.outValid (byteAt s.buf 0) (byteAt s.buf 1) := by
  rw [scanWord, geMin, decide_eq_true long, if_pos rfl, decodeScanner_pack]

end Sys2Proof.Machine

namespace Sys2Proof
open Machine

/-- Settles O33: the rows of both port groups (`decodeInput_pack`, `decodeOutput_pack`) for the word of the state, where
without reset and cancel `in_ready` is the room in the buffer. -/
theorem portWordSelectsItsRows : Obligations.PortWordSelectsItsRows := by
  intro s
  refine ⟨?_, ?_, fun rst => ?_⟩
  · rw [select, portWord, decodeInput_pack]
    cases rst : s.pins.rst with
    | true => rfl
    | false =>
      cases cancel : s.pins.cancel with
      | true => rfl
      | false =>
        rw [inReady_of_free rst cancel]
        cases s.pins.inValid with
        | false => rfl
        | true => by_cases room : s.buf.length < s.cfg.depth <;> simp [room, selected]
  · rw [select, portWord, decodeOutput_pack]
    cases s.pins.rst with
    | true => rfl
    | false => cases s.outValid <;> cases s.pins.outReady <;> rfl
  · rw [select, if_pos rst, decodeInput_portWord_of_rst rst, selected]

/-- Settles O34: the rows of the scanner word (`decodeScanner_pack`) and the cases of `scan_state` ask the same questions in
the same order. -/
theorem scannerWordSelectsScanState : Obligations.ScannerWordSelectsScanState := by
  intro s rst
  refine ⟨fun cancel => by simp [select, rst, cancel], fun cancel => ?_⟩
  have row : select .scanner s = some (decodeScanner (scanWord s)) := by simp [select, rst, cancel]
  rw [row]
  rcases Nat.lt_or_ge s.buf.length minLen with short | long
  · rw [decodeScanner_scanWord_short short, scanState, if_pos short]
  · rw [decodeScanner_scanWord_long long]
    cases header : headerAt s.buf with
    | true =>
      rw [if_pos ((headerAt_iff s.buf).mp header), geLen_of_header long header, scanState_of_header long header]
      cases s.outValid <;> rfl
    | false =>
      rw [if_neg fun front => Bool.eq_false_iff.mp header ((headerAt_iff s.buf).mpr front),
        (scanState_drop_iff _ _ _).mpr ⟨long, header⟩]

/-- Settles O35: the rows of the decoder word (`decodeDecoder_pack`), question by question. -/
theorem decoderWordSelectsItsRows : Obligations.DecoderWordSelectsItsRows := by
  intro f
  simp only [← headerAt_iff f]
  by_cases short : f.length < minLen
  · simp [decWord, shortFrame, decodeDecoder_pack, short]
  · by_cases header : headerAt f = true
    · by_cases sums : checksumCalc f = checksumField f <;>
        simp [decWord, shortFrame, checksumEq, decodeDecoder_pack, short, header, sums]
    · simp [decWord, shortFrame, decodeDecoder_pack, short, header]

/-- Settles O40: an admitted configuration's step completes (`takeTurn_completes`), any other is refused. -/
theorem smallDepthIsRefused : Obligations.SmallDepthIsRefused := by
  intro s
  rw [← not_le, ← admitted_iff]
  constructor
  · intro refused admitted
    obtain ⟨t, ht⟩ := takeTurn_completes (turnNow s) (beginStep s)
    rw [step_of_admitted admitted, ht] at refused
    cases refused
  · intro small
    rw [step, if_neg small]

end Sys2Proof

/-! PROOFS. The wire frame (30_encoding.md section 2): a record's frame decodes to the record, and a 47-byte frame that decodes
is its record's frame. Both compare a frame with its fields run by run (`span`). -/

namespace Sys2Proof.Machine

/-! ## Runs of bytes -/

/-- The `n` bytes of a frame from offset `k`. -/
def span (f : List Byte) (k n : Nat) : List Byte := (List.range' k n).map (byteAt f)

theorem span_append_span (f : List Byte) {k l : Nat} (n m : Nat) (h : l = k + n) :
    span f k n ++ span f l m = span f k (n + m) := by
  rw [h, span, span, span, ← List.map_append, List.range'_append_1]

/-- A run inside the frame is that part of the frame. -/
theorem span_eq_take_drop {f : List Byte} {k n : Nat} (h : k + n ≤ f.length) : span f k n = (f.drop k).take n := by
  apply List.ext_getElem
  · simp only [span, List.length_map, List.length_range', List.length_take, List.length_drop]
    omega
  · intro i hi _
    have inside : k + i < f.length := by
      simp only [span, List.length_map, List.length_range'] at hi
      omega
    simp [span, byteAt, inside]

theorem span_zero {f : List Byte} {n : Nat} (h : n ≤ f.length) : span f 0 n = f.take n :=
  span_eq_take_drop (by omega)

/-- A frame cut into three parts holds the middle one at the first one's length. -/
theorem span_of_append {f x y z : List Byte} {k : Nat} (h : f = x ++ y ++ z) (hk : x.length = k) :
    span f k y.length = y := by
  rw [span_eq_take_drop (by rw [h, ← hk]; simp), h, ← hk, List.append_assoc, List.drop_left, List.take_left]

/-! ## Fields -/

/-- R54: the two bytes a 16-bit field is read from are the ones it is written to. -/
theorem le16Bytes_le16 (f : List Byte) (k : Nat) : le16Bytes (le16 f k) = span f k 2 := by
  have low : (le16 f k).extractLsb' 0 8 = byteAt f k := BitVec.extractLsb'_append_eq_right
  have high : (le16 f k).extractLsb' 8 8 = byteAt f (k + 1) := BitVec.extractLsb'_append_eq_left
  rw [le16Bytes, low, high]
  rfl

theorem le16Bytes_injective {v w : Half} (h : le16Bytes v = le16Bytes w) : v = w := by
  obtain ⟨low, high⟩ : v.extractLsb' 0 8 = w.extractLsb' 0 8 ∧ v.extractLsb' 8 8 = w.extractLsb' 8 8 := by
    simpa [le16Bytes] using h
  have join (u : Half) : u.extractLsb' 8 8 ++ u.extractLsb' 0 8 = u :=
    (BitVec.extractLsb'_append_extractLsb'_eq_extractLsb' rfl).trans BitVec.extractLsb'_eq_self
  rw [← join v, ← join w, low, high]

/-- A field is read back where it was written. -/
theorem le16_of_append {f x z : List Byte} {v : Half} {k : Nat} (h : f = x ++ le16Bytes v ++ z)
    (hk : x.length = k) : le16 f k = v :=
  le16Bytes_injective ((le16Bytes_le16 f k).trans (span_of_append h hk))

/-- R71, R159: the bytes a point is read from are the ones it is written to. -/
theorem pointBytes_pointAt (f : List Byte) (i : Nat) : pointBytes (pointAt f i) = span f (6 + 3 * i) 3 := by
  rw [pointBytes, pointAt, le16Bytes_le16]
  exact span_append_span f (k := 6 + 3 * i) 2 1 (by omega : 8 + 3 * i = _)

theorem pointAt_of_append {f x z : List Byte} {p : Point} {i : Nat} (h : f = x ++ pointBytes p ++ z)
    (hk : x.length = 6 + 3 * i) : pointAt f i = p := by
  have bytes : pointBytes (pointAt f i) = pointBytes p := (pointBytes_pointAt f i).trans (span_of_append h hk)
  obtain ⟨dist, inten⟩ := List.append_inj bytes rfl
  obtain ⟨distRaw, intensity⟩ := p
  exact congr (congrArg Point.mk (le16Bytes_injective dist)) (List.singleton_inj.mp inten)

/-! ## The points -/

theorem length_flatMap_pointBytes (ps : List Point) : (ps.flatMap pointBytes).length = 3 * ps.length := by
  induction ps with
  | nil => rfl
  | cons p ps ih =>
    rw [List.flatMap_cons, List.length_append, ih, List.length_cons]
    simp only [pointBytes, le16Bytes, List.cons_append, List.nil_append, List.length_cons, List.length_nil]
    omega

/-- The wire bytes of the points, cut at point `i`. -/
theorem flatMap_pointBytes_split (ps : List Point) {i : Nat} (h : i < ps.length) :
    ps.flatMap pointBytes =
      (ps.take i).flatMap pointBytes ++ pointBytes ps[i] ++ (ps.drop (i + 1)).flatMap pointBytes := by
  conv_lhs => rw [← List.take_append_drop i ps, List.drop_eq_getElem_cons h]
  rw [List.flatMap_append, List.flatMap_cons, List.append_assoc]

/-- The points read from a frame, written out again, are the run they were read from. -/
theorem flatMap_pointBytes_pointAt (f : List Byte) (n : Nat) :
    ((List.range n).map (pointAt f)).flatMap pointBytes = span f 6 (3 * n) := by
  induction n with
  | zero => rfl
  | succ n ih =>
    rw [List.range_succ, List.map_append, List.flatMap_append, ih, List.map_singleton, List.flatMap_singleton,
      pointBytes_pointAt, span_append_span f _ _ rfl, Nat.mul_succ]

/-- The points of a frame that holds them from offset 6 on. -/
theorem points_of_append {f x z : List Byte} {ps : List Point} (h : f = x ++ ps.flatMap pointBytes ++ z)
    (hk : x.length = 6) : (List.range ps.length).map (pointAt f) = ps := by
  apply List.ext_getElem
  · simp
  · intro i _ hi
    rw [List.getElem_map, List.getElem_range]
    refine pointAt_of_append (x := x ++ (ps.take i).flatMap pointBytes)
      (z := (ps.drop (i + 1)).flatMap pointBytes ++ z) ?_ ?_
    · rw [h, flatMap_pointBytes_split ps hi]
      simp only [List.append_assoc]
    · rw [List.length_append, hk, length_flatMap_pointBytes, List.length_take, min_eq_left hi.le]

/-! ## The checksum of a frame that ends with it -/

theorem checksumCalc_append (body : List Byte) (v : Half) :
    checksumCalc (body ++ le16Bytes v) = BitVec.ofNat 16 (byteSum body) := by
  have all : (body ++ le16Bytes v).length - 2 = body.length := by simp [le16Bytes]
  rw [checksumCalc, all, List.take_left]

theorem checksumField_append (body : List Byte) (v : Half) : checksumField (body ++ le16Bytes v) = v :=
  le16_of_append (List.append_nil _).symm (by simp [le16Bytes])

/-! ## Decode -/

/-- R150: a slice that passes the three checks decodes to its parsed record. -/
theorem decodeFrame_of_checks {c : Config} {f : List Byte} (long : minLen ≤ f.length) (header : headerAt f = true)
    (sums : checksumCalc f = checksumField f) : decodeFrame c f = .ok (parseRecord c f) := by
  simp only [decodeFrame, long.not_gt, header, sums, bne_self_eq_false, Bool.not_true, Bool.false_eq_true, if_false]

/-- R158: with the conforming reading every frame has 12 points. -/
theorem parseRecord_conforming {c : Config} (conforming : c.lenFromByte1 = false) (f : List Byte) :
    parseRecord c f =
      { speedRaw := le16 f 2, startRaw := le16 f 4, endRaw := le16 f (f.length - 4), npts := 12,
        points := (List.range 12).map (pointAt f) } := by
  have declared : declLen c (byteAt f 1) = 47 := by rw [declLen, conforming]; rfl
  rw [parseRecord, declared]
  rfl

/-! ## The parts of a record's frame -/

theorem length_frameBody (r : Record) (spare : List Byte) :
    (frameBody r spare).length = 8 + 3 * r.points.length + spare.length := by
  simp only [frameBody, List.length_append, length_flatMap_pointBytes, le16Bytes, List.length_cons, List.length_nil]
  omega

theorem length_encodeFrame (r : Record) (spare : List Byte) :
    (encodeFrame r spare).length = 10 + 3 * r.points.length + spare.length := by
  rw [encodeFrame, List.length_append, length_frameBody]
  simp only [le16Bytes, List.length_cons, List.length_nil]
  omega

theorem headerAt_encodeFrame (r : Record) (spare : List Byte) : headerAt (encodeFrame r spare) = true := rfl

theorem checksum_encodeFrame (r : Record) (spare : List Byte) :
    checksumCalc (encodeFrame r spare) = checksumField (encodeFrame r spare) := by
  rw [encodeFrame, checksumCalc_append, checksumField_append]

theorem encodeFrame_speed (r : Record) (spare : List Byte) : le16 (encodeFrame r spare) 2 = r.speedRaw :=
  le16_of_append (x := [hdr0, hdr1]) (z := (encodeFrame r spare).drop 4) rfl rfl

theorem encodeFrame_start (r : Record) (spare : List Byte) : le16 (encodeFrame r spare) 4 = r.startRaw :=
  le16_of_append (x := [hdr0, hdr1] ++ le16Bytes r.speedRaw) (z := (encodeFrame r spare).drop 6) rfl rfl

theorem encodeFrame_end (r : Record) (spare : List Byte) :
    le16 (encodeFrame r spare) ((encodeFrame r spare).length - 4) = r.endRaw := by
  refine le16_of_append rfl ?_
  rw [length_encodeFrame]
  simp only [List.length_append, length_flatMap_pointBytes, le16Bytes, List.length_cons, List.length_nil]
  omega

theorem encodeFrame_points (r : Record) (spare : List Byte) :
    (List.range r.points.length).map (pointAt (encodeFrame r spare)) = r.points :=
  points_of_append (x := [hdr0, hdr1] ++ le16Bytes r.speedRaw ++ le16Bytes r.startRaw)
    (z := spare ++ le16Bytes r.endRaw ++ le16Bytes (BitVec.ofNat 16 (byteSum (frameBody r spare))))
    (by simp only [encodeFrame, frameBody, List.append_assoc]) rfl

/-! ## The parts of a 47-byte frame -/

/-- R7: the header is the run of the first two bytes. -/
theorem span_header {f : List Byte} (header : headerAt f = true) : span f 0 2 = [hdr0, hdr1] := by
  obtain ⟨first, second⟩ := (headerAt_iff f).mp header
  change [byteAt f 0, byteAt f 1] = _
  rw [first, second]

/-- R71, R75: what is parsed from a 47-byte frame, written out with the frame's spare byte, is the frame up to its checksum. -/
theorem frameBody_parseRecord {c : Config} (conforming : c.lenFromByte1 = false) {f : List Byte}
    (hlen : f.length = minLen) (header : headerAt f = true) :
    frameBody (parseRecord c f) [byteAt f 42] = span f 0 45 := by
  have spare : [byteAt f 42] = span f 42 1 := rfl
  rw [parseRecord_conforming conforming, frameBody, hlen, minLen_eq, ← span_header header, spare]
  simp only [le16Bytes_le16, flatMap_pointBytes_pointAt]
  rw [span_append_span f 2 2 rfl, span_append_span f 4 2 rfl, span_append_span f 6 _ rfl,
    span_append_span f 42 1 rfl, span_append_span f 43 2 rfl]

end Sys2Proof.Machine

namespace Sys2Proof
open Machine

/-- Settles O23: the frame passes Decode's three checks, and each field is read where it was written. -/
theorem frameDecodesToItsRecord : Obligations.FrameDecodesToItsRecord := by
  intro c r spare conforming hnpts hpoints hspare
  have long : minLen ≤ (encodeFrame r spare).length := by
    have := List.length_pos_iff.mpr hspare
    rw [length_encodeFrame, hpoints, minLen_eq]
    omega
  have points : (List.range 12).map (pointAt (encodeFrame r spare)) = r.points := hpoints ▸ encodeFrame_points r spare
  rw [decodeFrame_of_checks long (headerAt_encodeFrame r spare) (checksum_encodeFrame r spare),
    parseRecord_conforming conforming, encodeFrame_speed, encodeFrame_start, encodeFrame_end, points, ← hnpts]

/-- Settles O24: the frame's runs are its record's fields (`frameBody_parseRecord`), and its checksum field holds their sum
because Decode accepted it. -/
theorem acceptedFrameIsItsRecordsEncoding : Obligations.AcceptedFrameIsItsRecordsEncoding := by
  intro c f r conforming hlen decoded
  obtain ⟨-, header, sums, rfl⟩ := decodeFrame_ok decoded
  have h47 : f.length = 47 := hlen
  have sum : BitVec.ofNat 16 (byteSum (span f 0 45)) = le16 f 45 := by
    rw [checksumCalc, checksumField, h47] at sums
    rwa [span_zero (by omega)]
  calc encodeFrame (parseRecord c f) [byteAt f 42]
    _ = span f 0 45 ++ span f 45 2 := by
      rw [encodeFrame, frameBody_parseRecord conforming hlen header, sum, le16Bytes_le16]
    _ = span f 0 47 := span_append_span f 45 2 rfl
    _ = f := by rw [span_zero h47.ge, List.take_of_length_le h47.le]

end Sys2Proof

/-! PROOFS. The output bus (30_encoding.md section 3) and the consumer's scaled values (section 2): a record's fields stand on
the bus as the digits of a number, each of its own width. -/

namespace Sys2Proof.Machine

/-! ## Digits of a number -/

/-- The lowest digit. -/
theorem add_two_pow_mul_mod {a w : Nat} (m : Nat) (h : a < 2 ^ w) : (a + 2 ^ w * m) % 2 ^ w = a := by
  rw [Nat.add_mul_mod_self_left, Nat.mod_eq_of_lt h]

/-- The digits above the lowest. -/
theorem add_two_pow_mul_div {a w : Nat} (m k : Nat) (h : a < 2 ^ w) : (a + 2 ^ w * m) / 2 ^ (w + k) = m / 2 ^ k := by
  rw [Nat.pow_add, ← Nat.div_div_eq_div_mul, Nat.add_mul_div_left _ _ (Nat.two_pow_pos w), Nat.div_eq_of_lt h,
    Nat.zero_add]

theorem add_two_pow_mul_lt {a m w k n : Nat} (ha : a < 2 ^ w) (hm : m < 2 ^ k) (hn : n = w + k) :
    a + 2 ^ w * m < 2 ^ n := by
  rw [hn, Nat.pow_add]
  calc a + 2 ^ w * m
    _ < 2 ^ w * (m + 1) := by rw [Nat.mul_succ]; omega
    _ ≤ 2 ^ w * 2 ^ k := Nat.mul_le_mul_left _ hm

/-! ## The point slots -/

theorem pointSlot_of_point {r : Record} {i : Nat} {p : Point} (h : i < r.npts.toNat) (hp : r.points[i]? = some p) :
    pointSlot r i = p.distRaw.toNat + 2 ^ 16 * p.inten.toNat := by
  simp only [pointSlot, h, if_true, hp]

/-- R79: the slots from `npts` on are 0. -/
theorem pointSlot_of_npts_le {r : Record} {i : Nat} (h : r.npts.toNat ≤ i) : pointSlot r i = 0 :=
  if_neg h.not_gt

theorem pointSlot_lt (r : Record) (i : Nat) : pointSlot r i < 2 ^ 24 := by
  unfold pointSlot
  split
  · split
    · next p _ => exact add_two_pow_mul_lt p.distRaw.isLt p.inten.isLt rfl
    · exact Nat.two_pow_pos 24
  · exact Nat.two_pow_pos 24

theorem pointSlots_lt (r : Record) (i n : Nat) : pointSlots r i n < 2 ^ (24 * n) := by
  induction n generalizing i with
  | zero => exact Nat.one_pos
  | succ n ih =>
    exact add_two_pow_mul_lt (pointSlot_lt r i) (ih (i + 1)) (by omega)

/-- Slot `i + j` is digit `j` of the slots from `i` up. -/
theorem pointSlots_digit (r : Record) (i : Nat) {j n : Nat} (h : j < n) :
    pointSlots r i n / 2 ^ (24 * j) % 2 ^ 24 = pointSlot r (i + j) := by
  induction n generalizing i j with
  | zero => omega
  | succ n ih =>
    rw [pointSlots]
    cases j with
    | zero => rw [Nat.mul_zero, Nat.pow_zero, Nat.div_one, add_two_pow_mul_mod _ (pointSlot_lt r i), Nat.add_zero]
    | succ j =>
      rw [Nat.mul_succ, Nat.add_comm (24 * j), add_two_pow_mul_div _ _ (pointSlot_lt r i),
        ih (i + 1) (Nat.lt_of_succ_lt_succ h), Nat.add_right_comm, Nat.add_assoc]

/-! ## The bus value as a number -/

/-- R78: no bit of the layout falls outside the bus. -/
theorem packRecord_toNat (r : Record) :
    (packRecord r).toNat = r.speedRaw.toNat + 2 ^ 16 * (r.startRaw.toNat + 2 ^ 16 * (r.endRaw.toNat + 2 ^ 16 *
      (r.npts.toNat + 2 ^ 4 * pointSlots r 0 nptsMax))) := by
  have nptsAndSlots := add_two_pow_mul_lt (n := 292) r.npts.isLt (pointSlots_lt r 0 nptsMax) rfl
  have fromEnd := add_two_pow_mul_lt (n := 308) r.endRaw.isLt nptsAndSlots rfl
  have fromStart := add_two_pow_mul_lt (n := 324) r.startRaw.isLt fromEnd rfl
  have onBus := add_two_pow_mul_lt (n := 340) r.speedRaw.isLt fromStart rfl
  simp only [packRecord, BitVec.toNat_ofNat, Nat.mod_eq_of_lt onBus]

/-- A field of the bus is a digit of its number. -/
theorem extractLsb'_eq_of_digit {v : BitVec 340} {s w : Nat} {x : BitVec w} (h : v.toNat / 2 ^ s % 2 ^ w = x.toNat) :
    v.extractLsb' s w = x := by
  apply BitVec.eq_of_toNat_eq
  rw [BitVec.extractLsb'_toNat, Nat.shiftRight_eq_div_pow, h]

theorem packRecord_speed (r : Record) : (packRecord r).extractLsb' 0 16 = r.speedRaw := by
  apply extractLsb'_eq_of_digit
  rw [packRecord_toNat, Nat.pow_zero, Nat.div_one, add_two_pow_mul_mod _ r.speedRaw.isLt]

theorem packRecord_start (r : Record) : (packRecord r).extractLsb' 16 16 = r.startRaw := by
  apply extractLsb'_eq_of_digit
  rw [packRecord_toNat, add_two_pow_mul_div _ 0 r.speedRaw.isLt, Nat.pow_zero, Nat.div_one,
    add_two_pow_mul_mod _ r.startRaw.isLt]

/-- The bus value above the speed and the start angle. -/
theorem packRecord_div_end (r : Record) (k : Nat) :
    (packRecord r).toNat / 2 ^ (32 + k) =
      (r.endRaw.toNat + 2 ^ 16 * (r.npts.toNat + 2 ^ 4 * pointSlots r 0 nptsMax)) / 2 ^ k := by
  rw [packRecord_toNat, Nat.add_assoc 16 16 k, add_two_pow_mul_div _ (16 + k) r.speedRaw.isLt,
    add_two_pow_mul_div _ k r.startRaw.isLt]

theorem packRecord_end (r : Record) : (packRecord r).extractLsb' 32 16 = r.endRaw := by
  apply extractLsb'_eq_of_digit
  rw [packRecord_div_end r 0, Nat.pow_zero, Nat.div_one, add_two_pow_mul_mod _ r.endRaw.isLt]

theorem packRecord_npts (r : Record) : (packRecord r).extractLsb' 48 4 = r.npts := by
  apply extractLsb'_eq_of_digit
  rw [packRecord_div_end r 16, add_two_pow_mul_div _ 0 r.endRaw.isLt, Nat.pow_zero, Nat.div_one,
    add_two_pow_mul_mod _ r.npts.isLt]

/-- The bus value from bit 52 on: the point slots. -/
theorem packRecord_div_slots (r : Record) (k : Nat) :
    (packRecord r).toNat / 2 ^ (52 + k) = pointSlots r 0 nptsMax / 2 ^ k := by
  have above : 52 + k = 32 + (16 + (4 + k)) := by omega
  rw [above, packRecord_div_end, add_two_pow_mul_div _ _ r.endRaw.isLt, add_two_pow_mul_div _ _ r.npts.isLt]

/-- R78: the 24 bits from `52 + 24 i` on are slot `i`. -/
theorem packRecord_slot (r : Record) {i : Nat} (h : i < nptsMax) :
    (packRecord r).toNat / 2 ^ (52 + 24 * i) % 2 ^ 24 = pointSlot r i := by
  rw [packRecord_div_slots, pointSlots_digit r 0 h, Nat.zero_add]

theorem packRecord_slot_dist (r : Record) {i : Nat} (h : i < nptsMax) {x : Half}
    (hx : pointSlot r i % 2 ^ 16 = x.toNat) : (packRecord r).extractLsb' (52 + 24 * i) 16 = x := by
  apply extractLsb'_eq_of_digit
  rw [← hx, ← packRecord_slot r h, Nat.mod_mod_of_dvd _ (Nat.pow_dvd_pow 2 (by decide : 16 ≤ 24))]

theorem packRecord_slot_inten (r : Record) {i : Nat} (h : i < nptsMax) {x : Byte}
    (hx : pointSlot r i / 2 ^ 16 = x.toNat) : (packRecord r).extractLsb' (52 + 24 * i + 16) 8 = x := by
  apply extractLsb'_eq_of_digit
  rw [← hx, ← packRecord_slot r h, Nat.pow_add, ← Nat.div_div_eq_div_mul]
  exact (Nat.mod_mul_right_div_self _ (2 ^ 16) (2 ^ 8)).symm

theorem packRecord_point {r : Record} {i : Nat} {p : Point} (h : i < nptsMax) (hi : i < r.npts.toNat)
    (hp : r.points[i]? = some p) :
    (packRecord r).extractLsb' (52 + 24 * i) 16 = p.distRaw ∧
      (packRecord r).extractLsb' (52 + 24 * i + 16) 8 = p.inten := by
  have slot := pointSlot_of_point hi hp
  constructor
  · refine packRecord_slot_dist r h ?_
    rw [slot, add_two_pow_mul_mod _ p.distRaw.isLt]
  · refine packRecord_slot_inten r h ?_
    rw [slot, add_two_pow_mul_div _ 0 p.distRaw.isLt, Nat.pow_zero, Nat.div_one]

/-! ## Scaled values -/

/-- R74: an unsigned 16-bit value divided by a positive constant. -/
theorem half_div_range (v : Half) {d : Rat} (hd : 0 < d) :
    0 ≤ (v.toNat : Rat) / d ∧ (v.toNat : Rat) / d ≤ 65535 / d := by
  have top : (v.toNat : Rat) ≤ 65535 := by exact_mod_cast Nat.le_of_lt_succ v.isLt
  exact ⟨div_nonneg (Nat.cast_nonneg _) hd.le, div_le_div_of_nonneg_right top hd.le⟩

end Sys2Proof.Machine

namespace Sys2Proof
open Machine

/-- Settles O30: each field is a digit of the bus value, and the slots from `npts` on are 0. -/
theorem busLayout : Obligations.BusLayout := by
  intro r
  refine ⟨packRecord_speed r, packRecord_start r, packRecord_end r, packRecord_npts r, fun i h => ⟨?_, fun unused => ?_⟩⟩
  · exact fun p hi hp => packRecord_point h hi hp
  · have slot := pointSlot_of_npts_le unused
    exact ⟨packRecord_slot_dist r h (by rw [slot]; rfl), packRecord_slot_inten r h (by rw [slot]; rfl)⟩

/-- Settles O31: the fields of the bus are the record's (O30's lemmas), and a legal record has a point for each of its `npts`
slots. -/
theorem busValueCarriesTheRecord : Obligations.BusValueCarriesTheRecord := by
  intro r wf
  simp only [Record.wf, Bool.and_eq_true, Bool.or_eq_true, beq_iff_eq] at wf
  obtain ⟨legal, count⟩ := wf
  have few : r.npts.toNat ≤ nptsMax := by rcases legal with h | h <;> rw [h] <;> decide
  have points : (List.range r.npts.toNat).map (fun i =>
      { distRaw := (packRecord r).extractLsb' (52 + 24 * i) 16,
        inten := (packRecord r).extractLsb' (52 + 24 * i + 16) 8 : Point }) = r.points := by
    apply List.ext_getElem
    · simp [count]
    · intro i hi hp
      have here : i < r.npts.toNat := by simpa using hi
      obtain ⟨dist, inten⟩ := packRecord_point (here.trans_le few) here (List.getElem?_eq_getElem hp)
      rw [List.getElem_map, List.getElem_range, dist, inten]
  rw [unpackRecord, packRecord_speed, packRecord_start, packRecord_end, packRecord_npts, points]

/-- Settles O32: every scaled value is an unsigned 16-bit value divided by 100 or 1000. -/
theorem scaledValuesStayInRange : Obligations.ScaledValuesStayInRange := by
  have hundred : (0 : Rat) < 100 := by norm_num
  have thousand : (0 : Rat) < 1000 := by norm_num
  exact ⟨fun r => ⟨half_div_range r.speedRaw hundred, half_div_range r.startRaw hundred, half_div_range r.endRaw hundred⟩,
    fun p => half_div_range p.distRaw thousand⟩

end Sys2Proof

/-! PROOFS. The bench of a stimulus script (30_encoding.md section 6): what the turns it takes do, that its loops of offers and
scanner steps end where they should, and what the ACCEPT command leaves. -/

namespace Sys2Proof.Machine

/-! ## Enabled operations -/

theorem takeTurn_push {s : State} (rst : s.pins.rst = false) (cancel : s.pins.cancel = false)
    (offered : s.pins.inValid = true) (room : s.buf.length < s.cfg.depth) :
    takeTurn .input s = .next (bufAppend s.pins.inData s) := by
  have ready : inReady s = true := (inReady_iff s).mpr ⟨rst, cancel, room⟩
  have row : select .input s = some (.push s.outValid s.pins.outReady s.pins.inData) := by
    obtain ⟨input, -, -⟩ := portWordSelectsItsRows s
    rw [input, rst, cancel, offered, if_neg Bool.false_ne_true, if_neg Bool.false_ne_true, if_pos rfl, if_pos room]
  rw [takeTurn_of_select_some row]
  change execPush s.pins.inData s = _
  rw [execPush, offered, ready]
  rfl

theorem takeTurn_accept {s : State} (rst : s.pins.rst = false) (presented : s.outValid = true)
    (ready : s.pins.outReady = true) : takeTurn .output s = .next (handOver s) := by
  have row : select .output s = some (.accept s.pins.cancel s.pins.inValid (inReady s)) := by
    obtain ⟨-, output, -⟩ := portWordSelectsItsRows s
    rw [output, rst, presented, ready, if_neg Bool.false_ne_true, if_pos rfl, if_pos rfl]
  rw [takeTurn_of_select_some row]
  change execAccept s = _
  rw [execAccept, rst, presented, ready]
  rfl

theorem takeTurn_drop {s : State} (rst : s.pins.rst = false) (cancel : s.pins.cancel = false)
    (state : scanState s.cfg s.buf s.outValid = .drop) :
    takeTurn .scanner s =
      .next (emit .drop (setDropPulse { s with buf := s.buf.drop 1, consumed := s.consumed + 1 })) := by
  have row := (scannerWordSelectsScanState s rst).2 cancel
  rw [state] at row
  obtain ⟨long, noHeader⟩ := (scanState_drop_iff _ _ _).mp state
  have enabled : (scannerFree s && geMin s.buf && !headerAt s.buf) = true := by
    rw [(scannerFree_iff s).mpr ⟨rst, cancel⟩, (geMin_iff s.buf).mpr long, noHeader]
    rfl
  have front : 1 ≤ s.buf.length := by rw [minLen_eq] at long; omega
  rw [takeTurn_of_select_some row]
  change execScanDrop s = _
  rw [execScanDrop, if_pos enabled, bufRemove_of_le front]

theorem takeTurn_frame {s : State} (rst : s.pins.rst = false) (cancel : s.pins.cancel = false)
    (state : scanState s.cfg s.buf s.outValid = .frame) :
    takeTurn .scanner s = .next (dispatchFrame (decodeFrame s.cfg (s.buf.take (sliceLen s.cfg)))
      { s with buf := s.buf.drop (sliceLen s.cfg), consumed := s.consumed + sliceLen s.cfg }) := by
  have row := (scannerWordSelectsScanState s rst).2 cancel
  rw [state] at row
  obtain ⟨long, header, unpresented⟩ := (scanState_frame_iff _ _ _).mp state
  have enabled : (scannerFree s && geMin s.buf && headerAt s.buf && geLen s.cfg s.buf && !s.outValid) = true := by
    rw [(scannerFree_iff s).mpr ⟨rst, cancel⟩, (geMin_iff s.buf).mpr long, header, geLen_of_header long header,
      unpresented]
    rfl
  have slice : sliceLen s.cfg ≤ s.buf.length := (sliceLen_le s.cfg).trans long
  have second : 1 < s.buf.length := by rw [minLen_eq] at long; omega
  rw [takeTurn_of_select_some row]
  change execScanFrame s = _
  rw [execScanFrame, if_pos enabled, bufPeek_of_lt second]
  simp only [declLen_of_header header, bufSlice_of_le slice, bufRemove_of_le slice]

theorem frameEvent_ne_acc (d : DecodeResult) : frameEvent d ≠ .acc := by
  cases d <;> nofun

/-- An enabled scanner step removes bytes and emits one event, which is no ACC (R185). -/
theorem takeTurn_scanner {s : State} (rst : s.pins.rst = false) (cancel : s.pins.cancel = false)
    (enabled : scannerRests s = false) :
    ∃ u, takeTurn .scanner s = .next u ∧ u.cfg = s.cfg ∧ u.pins = s.pins ∧ u.buf.length < s.buf.length ∧
      ∃ e, e ≠ .acc ∧ u.trace = s.trace ++ [e] := by
  have state : scanState s.cfg s.buf s.outValid = .drop ∨ scanState s.cfg s.buf s.outValid = .frame := by
    by_contra neither
    exact Bool.eq_false_iff.mp enabled ((scannerRests_iff _).mpr (not_or.mp neither))
  rcases state with drop | frame
  · obtain ⟨long, -⟩ := (scanState_drop_iff _ _ _).mp drop
    refine ⟨_, takeTurn_drop rst cancel drop, rfl, rfl, ?_, .drop, nofun, rfl⟩
    rw [minLen_eq] at long
    simp only [emit_buf, setDropPulse_buf, List.length_drop]
    omega
  · obtain ⟨long, -, -⟩ := (scanState_frame_iff _ _ _).mp frame
    refine ⟨_, takeTurn_frame rst cancel frame, dispatchFrame_cfg _ _, dispatchFrame_pins _ _, ?_, _,
      frameEvent_ne_acc _, dispatchFrame_trace _ _⟩
    have removed := sliceLen_pos s.cfg
    rw [minLen_eq] at long
    simp only [dispatchFrame_buf, List.length_drop]
    omega

/-! ## The state a turn of the bench begins in -/

/-- The begun state of a bench's turn with its input levels. -/
def begun (t : Turn) (p : Pins) (s : State) : State := beginStep { s with sched := { turn := t, pins := p } :: s.sched }

@[simp] theorem begun_pins (t : Turn) (p : Pins) (s : State) : (begun t p s).pins = p :=
  beginStep_pins_of_cons (slot := { turn := t, pins := p }) (rest := s.sched) rfl
@[simp] theorem begun_cfg (t : Turn) (p : Pins) (s : State) : (begun t p s).cfg = s.cfg := beginStep_cfg _
@[simp] theorem begun_buf (t : Turn) (p : Pins) (s : State) : (begun t p s).buf = s.buf := beginStep_buf _
@[simp] theorem begun_outValid (t : Turn) (p : Pins) (s : State) : (begun t p s).outValid = s.outValid :=
  beginStep_outValid _
@[simp] theorem begun_trace (t : Turn) (p : Pins) (s : State) : (begun t p s).trace = s.trace := beginStep_trace _

/-- A turn of the bench in an admitted configuration is the machine's turn from its begun state. -/
theorem benchTurn_of_takeTurn {t : Turn} {p : Pins} {b : Bench} {s : State} (admitted : b.machine.cfg.admitted = true)
    (h : takeTurn t (begun t p b.machine) = .next s) : benchTurn t p b = .ok { b with machine := s } := by
  refine benchTurn_of_next ((step_of_admitted ?_).trans h)
  exact admitted

/-! ## What the bench's turns do -/

/-- The source's byte has been taken. -/
structure Pushed (x : Byte) (s u : State) : Prop where
  cfg : u.cfg = s.cfg
  outReady : u.pins.outReady = s.pins.outReady
  buf : u.buf = s.buf ++ [x]
  outValid : u.outValid = s.outValid
  trace : u.trace = s.trace

/-- The scanner has taken an enabled step. -/
structure Scanned (s u : State) : Prop where
  cfg : u.cfg = s.cfg
  pins : u.pins = restPins s
  shorter : u.buf.length < s.buf.length
  event : ∃ e, e ≠ .acc ∧ u.trace = s.trace ++ [e]

/-- The sink has taken the presented record. -/
structure Accepted (s u : State) : Prop where
  ready : s.pins.outReady = true
  cfg : u.cfg = s.cfg
  pins : u.pins = restPins s
  buf : u.buf = s.buf
  outValid : u.outValid = false
  trace : u.trace = s.trace ++ [.acc]

theorem benchTurn_push {b : Bench} (x : Byte) (admitted : b.machine.cfg.admitted = true)
    (ready : inReady b.machine = true) :
    ∃ s, benchTurn .input { restPins b.machine with inValid := true, inData := x } b = .ok { b with machine := s } ∧
      Pushed x b.machine s := by
  obtain ⟨-, -, room⟩ := (inReady_iff _).mp ready
  refine ⟨_, benchTurn_of_takeTurn admitted (takeTurn_push ?_ ?_ ?_ ?_), ?_⟩
  case refine_5 => constructor <;> simp [restPins]
  all_goals simp [restPins, Pins.idle, room]

theorem benchTurn_scanner {b : Bench} (admitted : b.machine.cfg.admitted = true)
    (enabled : scannerRests b.machine = false) :
    ∃ s, benchTurn .scanner (restPins b.machine) b = .ok { b with machine := s } ∧ Scanned b.machine s := by
  obtain ⟨u, turn, cfg, pins, shorter, e, notAcc, trace⟩ :=
    takeTurn_scanner (s := begun .scanner (restPins b.machine) b.machine) (by rw [begun_pins]; rfl)
      (by rw [begun_pins]; rfl) (by rw [scannerRests, begun_cfg, begun_buf, begun_outValid]; exact enabled)
  rw [begun_cfg] at cfg
  rw [begun_pins] at pins
  rw [begun_buf] at shorter
  rw [begun_trace] at trace
  exact ⟨u, benchTurn_of_takeTurn admitted turn, cfg, pins, shorter, e, notAcc, trace⟩

/-! ## payAccept -/

@[simp] theorem payAccept_cfg (b : Bench) : (payAccept b).machine.cfg = b.machine.cfg := by
  unfold payAccept; split <;> rfl
@[simp] theorem payAccept_buf (b : Bench) : (payAccept b).machine.buf = b.machine.buf := by
  unfold payAccept; split <;> rfl
@[simp] theorem payAccept_outValid (b : Bench) : (payAccept b).machine.outValid = b.machine.outValid := by
  unfold payAccept; split <;> rfl
@[simp] theorem payAccept_trace (b : Bench) : (payAccept b).machine.trace = b.machine.trace := by
  unfold payAccept; split <;> rfl
@[simp] theorem payAccept_pending (b : Bench) : (payAccept b).pending = b.pending := by
  unfold payAccept; split <;> rfl

/-- The inputs are those of a bench between commands. -/
def AtRest (b : Bench) : Prop := b.machine.pins = restPins b.machine

theorem atRest_atRest (b : Bench) : AtRest (atRest b) := rfl

theorem atRest_of_pins {b : Bench} {s : State} (h : b.machine.pins = restPins s) : AtRest b := by
  rw [AtRest, restPins, h]
  rfl

theorem payAccept_atRest {b : Bench} (h : AtRest b) : AtRest (payAccept b) := by
  unfold payAccept
  split
  · exact h
  · rfl
  · exact h

/-- Between commands `in_ready` is the room in the buffer. -/
theorem AtRest.inReady {b : Bench} (h : AtRest b) :
    inReady b.machine = decide (b.machine.buf.length < b.machine.cfg.depth) :=
  inReady_of_free (by rw [h]; rfl) (by rw [h]; rfl)

/-! ## benchAccept and benchScan -/

/-- What `benchAccept` can do: nothing is to be accepted, or one record is. -/
inductive BenchAccepted (b : Bench) : Bench → Prop
  | none (h : (b.machine.outValid && b.machine.pins.outReady) = false) : BenchAccepted b b
  | taken (s : State) (h : Accepted b.machine s) : BenchAccepted b (payAccept { b with machine := s })

theorem benchAccept_ok {b : Bench} (admitted : b.machine.cfg.admitted = true) :
    ∃ b', benchAccept b = .ok b' ∧ BenchAccepted b b' := by
  unfold benchAccept
  split
  next both =>
    obtain ⟨presented, ready⟩ := Bool.and_eq_true_iff.mp both
    have turn := benchTurn_of_takeTurn (p := restPins b.machine) admitted
      (takeTurn_accept (by simp [restPins, Pins.idle]) (by simp [presented]) (by simp [restPins, ready]))
    rw [turn]
    refine ⟨_, rfl, .taken _ ?_⟩
    constructor <;> simp [ready]
  next quiet => exact ⟨b, rfl, .none (Bool.eq_false_iff.mpr quiet)⟩

namespace BenchAccepted

variable {b b' : Bench}

theorem cfg_eq (h : BenchAccepted b b') : b'.machine.cfg = b.machine.cfg := by
  cases h with
  | none => rfl
  | taken s a => exact (payAccept_cfg _).trans a.cfg

theorem buf_eq (h : BenchAccepted b b') : b'.machine.buf = b.machine.buf := by
  cases h with
  | none => rfl
  | taken s a => exact (payAccept_buf _).trans a.buf

theorem pending_eq (h : BenchAccepted b b') : b'.pending = b.pending := by
  cases h with
  | none => rfl
  | taken s a => exact payAccept_pending _

theorem atRest (h : BenchAccepted b b') (rest : AtRest b) : AtRest b' := by
  cases h with
  | none => exact rest
  | taken s a => exact payAccept_atRest (atRest_of_pins a.pins)

end BenchAccepted

theorem benchScan_ok {b : Bench} (admitted : b.machine.cfg.admitted = true) (enabled : scannerRests b.machine = false) :
    ∃ s b', benchScan b = .ok b' ∧ Scanned b.machine s ∧ BenchAccepted { b with machine := s } b' := by
  obtain ⟨s, turn, scanned⟩ := benchTurn_scanner admitted enabled
  obtain ⟨b', accept, accepted⟩ := benchAccept_ok (b := { b with machine := s }) (by rw [← admitted, scanned.cfg])
  refine ⟨s, b', ?_, scanned, accepted⟩
  rw [benchScan, if_neg (Bool.eq_false_iff.mp enabled), turn]
  exact accept

/-! ## The loops of the bench -/

/-- A property of the bench that a byte taken and a scanner step, with the accept that may follow it, keep. -/
structure BenchKeeps (P : Bench → Prop) : Prop where
  rest {b : Bench} : P b → P (atRest b)
  push {b : Bench} {x : Byte} {s : State} (xs : List Byte) :
    P b → Pushed x b.machine s → P (atRest { b with machine := s, pending := xs })
  scan {b b' : Bench} {s : State} : P b → Scanned b.machine s → BenchAccepted { b with machine := s } b' → P b'

/-- The bytes that the source still has to offer and those that the scanner has still to remove. -/
def bytesLeft (b : Bench) : Nat := b.pending.length + b.machine.buf.length

/-- Where the source has offered what it has: every byte is taken, or the buffer is full and the scanner rests. -/
structure Offered (P : Bench → Prop) (b b' : Bench) : Prop where
  cfg : b'.machine.cfg = b.machine.cfg
  rest : AtRest b'
  kept : P b'
  left : bytesLeft b' ≤ bytesLeft b
  stuck : b'.pending = [] ∨ inReady b'.machine = false ∧ scannerRests b'.machine = true

/-- A loop that goes on from a later bench ends as one from the earlier. -/
theorem Offered.of_later {P : Bench → Prop} {b b' t : Bench} (h : Offered P b' t)
    (cfg : b'.machine.cfg = b.machine.cfg) (left : bytesLeft b' ≤ bytesLeft b) : Offered P b t :=
  { h with cfg := h.cfg.trans cfg, left := h.left.trans left }

section Loops

variable {P : Bench → Prop}

theorem offerGo_ok (keeps : BenchKeeps P) (fuel : Nat) (b : Bench) (admitted : b.machine.cfg.admitted = true)
    (rest : AtRest b) (hP : P b) (rounds : 2 * b.pending.length + b.machine.buf.length < fuel) :
    ∃ t, offerGo fuel b = .ok t ∧ Offered P b t := by
  induction fuel generalizing b with
  | zero => omega
  | succ fuel ih =>
    unfold offerGo
    split
    next empty => exact ⟨b, rfl, rfl, rest, hP, le_rfl, .inl empty⟩
    next x xs front =>
      rw [front, List.length_cons] at rounds
      split
      next ready =>
        obtain ⟨s, turn, pushed⟩ := benchTurn_push x admitted ready
        have length : s.buf.length = b.machine.buf.length + 1 := by rw [pushed.buf, List.length_append]; rfl
        obtain ⟨t, go, offered⟩ := ih (atRest { b with machine := s, pending := xs })
          (by rw [← admitted, atRest_cfg, pushed.cfg]) (atRest_atRest _) (keeps.push xs hP pushed)
          (by simp only [atRest_pending, atRest_buf]; omega)
        refine ⟨t, ?_, offered.of_later pushed.cfg ?_⟩
        · rw [turn]; exact go
        · simp only [bytesLeft, atRest_pending, atRest_buf, length, front, List.length_cons]
          omega
      next full =>
        split
        next rests => exact ⟨b, rfl, rfl, rest, hP, le_rfl, .inr ⟨Bool.eq_false_iff.mpr full, rests⟩⟩
        next enabled =>
          obtain ⟨s, b', turn, scanned, accepted⟩ := benchScan_ok admitted (Bool.eq_false_iff.mpr enabled)
          have shorter : b'.machine.buf.length < b.machine.buf.length := by rw [accepted.buf_eq]; exact scanned.shorter
          have cfg : b'.machine.cfg = b.machine.cfg := accepted.cfg_eq.trans scanned.cfg
          have pending : b'.pending = b.pending := accepted.pending_eq
          obtain ⟨t, go, offered⟩ := ih b' (by rw [← admitted, cfg]) (accepted.atRest (atRest_of_pins scanned.pins))
            (keeps.scan hP scanned accepted) (by rw [pending, front, List.length_cons]; omega)
          refine ⟨t, ?_, offered.of_later cfg ?_⟩
          · rw [turn]; exact go
          · simp only [bytesLeft, pending]; omega

theorem settle_ok (keeps : BenchKeeps P) {b : Bench} (admitted : b.machine.cfg.admitted = true) (hP : P b) :
    ∃ t, settle b = .ok t ∧ Offered P b t := by
  obtain ⟨t, go, offered⟩ := offerGo_ok keeps (2 * b.pending.length + b.machine.buf.length + 1) (atRest b) admitted
    (atRest_atRest b) (keeps.rest hP) (Nat.lt_succ_self _)
  exact ⟨t, go, offered.of_later rfl le_rfl⟩

theorem scanGo_ok (keeps : BenchKeeps P) (done : Bench → Bool) (fuel : Nat) (b : Bench)
    (admitted : b.machine.cfg.admitted = true) (hP : P b) (rounds : bytesLeft b < fuel) :
    ∃ t, scanGo done fuel b = .ok t ∧ Offered P b t ∧ (done t = true ∨ scannerRests t.machine = true) := by
  induction fuel generalizing b with
  | zero => omega
  | succ fuel ih =>
    obtain ⟨b', settled, offered⟩ := settle_ok keeps admitted hP
    have unfolded : scanGo done (fuel + 1) b =
        if done b' || scannerRests b'.machine then .ok b' else (benchScan b').bind (scanGo done fuel) := by
      rw [scanGo, settled]; rfl
    rw [unfolded]
    split
    next ends => exact ⟨b', rfl, offered, Bool.or_eq_true_iff.mp ends⟩
    next goesOn =>
      obtain ⟨-, enabled⟩ := Bool.or_eq_false_iff.mp (Bool.eq_false_iff.mpr goesOn)
      obtain ⟨s, b'', turn, scanned, accepted⟩ := benchScan_ok (by rw [← admitted, offered.cfg]) enabled
      have cfg : b''.machine.cfg = b.machine.cfg := (accepted.cfg_eq.trans scanned.cfg).trans offered.cfg
      have fewer : bytesLeft b'' < bytesLeft b := by
        have shorter := scanned.shorter
        have left := offered.left
        rw [bytesLeft, accepted.pending_eq, accepted.buf_eq]
        simp only [bytesLeft] at left ⊢
        omega
      obtain ⟨t, go, later, ends⟩ := ih b'' (by rw [← admitted, cfg]) (keeps.scan offered.kept scanned accepted)
        (by omega)
      refine ⟨t, ?_, later.of_later cfg fewer.le, ends⟩
      rw [turn]; exact go

/-- The accept that `scanUntil` begins with need only establish the property. -/
theorem scanUntil_ok (keeps : BenchKeeps P) (done : Bench → Bool) {b : Bench}
    (admitted : b.machine.cfg.admitted = true) (first : ∀ b', BenchAccepted b b' → P b') :
    ∃ t, scanUntil done b = .ok t ∧ Offered P b t ∧ (done t = true ∨ scannerRests t.machine = true) := by
  obtain ⟨b', accept, accepted⟩ := benchAccept_ok admitted
  obtain ⟨t, go, offered, ends⟩ := scanGo_ok keeps done (bytesLeft b' + 1) b' (by rw [← admitted, accepted.cfg_eq])
    (first b' accepted) (Nat.lt_succ_self _)
  refine ⟨t, ?_, offered.of_later accepted.cfg_eq ?_, ends⟩
  · rw [scanUntil, accept]; exact go
  · rw [bytesLeft, bytesLeft, accepted.pending_eq, accepted.buf_eq]

end Loops

/-! ## The ACCEPT command -/

/-- R86 ACCEPT, from a bench with `n` ACCs: one more has been emitted and the sink is not ready, or the accept is still owed
to a ready sink. -/
def AcceptTally (n : Nat) (b : Bench) : Prop :=
  (b.owed = 0 ∧ b.machine.pins.outReady = false ∧ b.machine.trace.count .acc = n + 1) ∨
  (b.owed = 1 ∧ b.machine.pins.outReady = true ∧ b.machine.trace.count .acc = n)

/-- The tally between the bench's steps, where no record waits for a ready sink. -/
structure AcceptWaits (n : Nat) (b : Bench) : Prop where
  tally : AcceptTally n b
  quiet : (b.machine.outValid && b.machine.pins.outReady) = false

theorem AcceptTally.congr {n : Nat} {b b' : Bench} (h : AcceptTally n b) (owed : b'.owed = b.owed)
    (ready : b'.machine.pins.outReady = b.machine.pins.outReady)
    (count : b'.machine.trace.count .acc = b.machine.trace.count .acc) : AcceptTally n b' := by
  rw [AcceptTally, owed, ready, count]
  exact h

/-- An accept pays the one owed. -/
theorem AcceptTally.accepted {n : Nat} {b b' : Bench} (h : AcceptTally n b) (a : BenchAccepted b b') :
    AcceptWaits n b' := by
  cases a with
  | none quiet => exact ⟨h, quiet⟩
  | taken s a =>
    obtain ⟨-, notReady, -⟩ | ⟨owed, -, count⟩ := h
    · exact absurd (notReady.symm.trans a.ready) Bool.false_ne_true
    · refine ⟨.inl ⟨?_, ?_, ?_⟩, ?_⟩
      · rw [payAccept_owed, owed]
      · rw [payAccept_outReady, owed]; rfl
      · rw [payAccept_trace, a.trace, List.count_append, count]; rfl
      · rw [payAccept_outValid, a.outValid]; rfl

theorem acceptWaits_kept (n : Nat) : BenchKeeps (AcceptWaits n) where
  rest h := ⟨h.tally, h.quiet⟩
  push _ h pushed := ⟨h.tally.congr rfl pushed.outReady (congrArg _ pushed.trace), by
    have quiet := h.quiet
    rwa [← pushed.outValid, ← pushed.outReady] at quiet⟩
  scan {b _ s} h scanned a := by
    have tally : AcceptTally n { b with machine := s } := by
      refine h.tally.congr rfl ?_ ?_
      · rw [scanned.pins]; rfl
      · obtain ⟨e, notAcc, trace⟩ := scanned.event
        rw [trace, List.count_append, List.count_singleton, if_neg (by simpa using notAcc), Nat.add_zero]
    exact tally.accepted a

/-- A scanner at rest with no record presented leaves room in an admitted buffer (R33, R120). -/
theorem room_of_scannerRests {s : State} (admitted : s.cfg.admitted = true) (rests : scannerRests s = true)
    (unpresented : s.outValid = false) : s.buf.length < s.cfg.depth := by
  have depth := (admitted_iff _).mp admitted
  obtain ⟨little | ⟨-, -, presented⟩, -⟩ := restingScannerHoldsLittle s rests
  · rw [minLen_eq] at little
    omega
  · exact absurd (unpresented.symm.trans presented) Bool.false_ne_true

end Sys2Proof.Machine

namespace Sys2Proof
open Machine

/-- Settles O60: the bench's loop keeps the tally of accepts (`acceptWaits_kept`) and ends with the accept paid or with the
scanner at rest (`scanUntil_ok`); with the accept still owed no record is presented, so there was room for every byte. -/
theorem acceptCommandWaitsForOneAccept : Obligations.AcceptCommandWaitsForOneAccept := by
  intro b started admitted owed
  have tally : AcceptTally (b.machine.trace.count .acc) (holdSink true (b.owed + 1) b) :=
    .inr ⟨by rw [holdSink_owed, owed], rfl, rfl⟩
  obtain ⟨t, run, offered, ends⟩ := scanUntil_ok (acceptWaits_kept _) (fun b' => b'.owed == 0)
    (b := holdSink true (b.owed + 1) b) admitted fun _ => tally.accepted
  refine ⟨t, ?_, ?_⟩
  · rw [runCommand, whenStarted, started]; exact run
  · refine offered.kept.tally.imp id fun ⟨one, ready, count⟩ => ?_
    have unpresented : t.machine.outValid = false := by simpa [ready] using offered.kept.quiet
    have rests : scannerRests t.machine = true := by simpa [one] using ends
    have room := room_of_scannerRests (by rw [offered.cfg]; exact admitted) rests unpresented
    refine ⟨one, ready, count, unpresented, ?_, rests⟩
    refine offered.stuck.resolve_right fun ⟨full, _⟩ => ?_
    rw [offered.rest.inReady] at full
    exact of_decide_eq_false full room

end Sys2Proof

/-! PROOFS. The input port (40_ingest.md): which operation it selects without reset and cancel, what each operation does enabled
and disabled (log 9), what each operation of the framer leaves unchanged, and the INGEST command. -/

namespace Sys2Proof.Machine

/-! ## What the input port selects -/

/-- R81: an offered byte selects by the room in the buffer alone. -/
theorem select_input_of_offered {s : State} (rst : s.pins.rst = false) (cancel : s.pins.cancel = false)
    (offered : s.pins.inValid = true) :
    select .input s =
      if s.buf.length < s.cfg.depth then some (.push s.outValid s.pins.outReady s.pins.inData)
      else some (.inStall s.outValid s.pins.outReady s.pins.inData) := by
  obtain ⟨input, -, -⟩ := portWordSelectsItsRows s
  rw [input, rst, cancel, offered, if_neg Bool.false_ne_true, if_neg Bool.false_ne_true, if_pos rfl]

/-- R101: a full buffer holds `in_ready` at 0, whatever the inputs are. -/
theorem inReady_of_full {s : State} (full : s.cfg.depth ≤ s.buf.length) : inReady s = false :=
  Bool.eq_false_iff.mpr fun ready =>
    have ⟨_, _, room⟩ := (inReady_iff s).mp ready
    full.not_gt room

/-! ## Enabled operations -/

theorem execCancel_of_cancel {s : State} (rst : s.pins.rst = false) (cancel : s.pins.cancel = true) :
    execCancel s = .next (clearPulses (bufEmpty s)) := by
  rw [execCancel, rst, cancel]
  rfl

theorem execPush_of_ready {s : State} (offered : s.pins.inValid = true) (ready : inReady s = true) (b : Byte) :
    execPush b s = .next (bufAppend b s) := by
  rw [execPush, offered, ready]
  rfl

/-! ## Disabled operations (log 9) -/

theorem execReset_of_disabled {s : State} (h : s.pins.rst = false) : execReset s = .next s :=
  if_neg (Bool.eq_false_iff.mp h)

theorem execCancel_of_disabled {s : State} (h : s.pins.rst = true ∨ s.pins.cancel = false) :
    execCancel s = .next s :=
  if_neg <| by rcases h with rst | cancel <;> simp [*]

theorem execPush_of_disabled {s : State} (h : s.pins.inValid = false ∨ inReady s = false) (b : Byte) :
    execPush b s = .next s :=
  if_neg <| by rcases h with quiet | notReady <;> simp [*]

theorem execAccept_of_disabled {s : State}
    (h : s.pins.rst = true ∨ s.outValid = false ∨ s.pins.outReady = false) : execAccept s = .next s :=
  if_neg <| by rcases h with rst | unpresented | notReady <;> simp [*]

/-- With reset or cancel the scanner is not free, whatever the buffer holds (R82). -/
theorem not_scannerFree {s : State} (h : s.pins.rst = true ∨ s.pins.cancel = true) : scannerFree s ≠ true := by
  intro free
  obtain ⟨rst, cancel⟩ := (scannerFree_iff s).mp free
  simp [rst, cancel] at h

theorem execScanDrop_of_disabled {s : State}
    (h : s.pins.rst = true ∨ s.pins.cancel = true ∨ s.buf.length < minLen ∨ headerAt s.buf = true) :
    execScanDrop s = .next s := by
  refine (execScanDrop_cases s).resolve_left fun ⟨free, long, noHeader, _⟩ => ?_
  rcases h with rst | cancel | short | header
  · exact not_scannerFree (.inl rst) free
  · exact not_scannerFree (.inr cancel) free
  · exact long.not_gt short
  · exact Bool.eq_false_iff.mp noHeader header

theorem execScanFrame_of_disabled {s : State}
    (h : s.pins.rst = true ∨ s.pins.cancel = true ∨ s.buf.length < minLen ∨ headerAt s.buf = false ∨
      s.outValid = true) : execScanFrame s = .next s := by
  refine (execScanFrame_cases s).resolve_left fun ⟨free, long, header, unpresented, _⟩ => ?_
  rcases h with rst | cancel | short | noHeader | presented
  · exact not_scannerFree (.inl rst) free
  · exact not_scannerFree (.inr cancel) free
  · exact long.not_gt short
  · exact Bool.eq_false_iff.mp noHeader header
  · exact Bool.eq_false_iff.mp unpresented presented

/-! ## What no operation changes -/

/-- The configuration, the input levels, the call argument and the schedule are written around an operation, never by it. -/
theorem Effect.surroundings {s t : State} (h : Effect s t) :
    t.cfg = s.cfg ∧ t.pins = s.pins ∧ t.decIn = s.decIn ∧ t.sched = s.sched := by
  cases h with
  | frame =>
    exact ⟨dispatchFrame_cfg _ _, dispatchFrame_pins _ _, dispatchFrame_decIn _ _, dispatchFrame_sched _ _⟩
  | same | reset | cancel | push | accept | drop | decode => exact ⟨rfl, rfl, rfl, rfl⟩

/-! ## The INGEST command (R103) -/

/-- Every byte that the source had to offer stands at the end of the buffer, and no event was emitted. -/
structure TakenWhole (b t : Bench) : Prop where
  buf : t.machine.buf = b.machine.buf ++ b.pending
  trace : t.machine.trace = b.machine.trace
  pending : t.pending = []

/-- With room for every pending byte each round of the source is a push, so the scanner never gets a turn. -/
theorem offerGo_of_room (fuel : Nat) (b : Bench) (admitted : b.machine.cfg.admitted = true) (rest : AtRest b)
    (room : b.machine.buf.length + b.pending.length ≤ b.machine.cfg.depth) (rounds : b.pending.length < fuel) :
    ∃ t, offerGo fuel b = .ok t ∧ TakenWhole b t := by
  induction fuel generalizing b with
  | zero => omega
  | succ fuel ih =>
    unfold offerGo
    split
    next empty => exact ⟨b, rfl, by rw [empty, List.append_nil], rfl, empty⟩
    next x xs front =>
      rw [front, List.length_cons] at room rounds
      have ready : inReady b.machine = true := by
        rw [rest.inReady, decide_eq_true_eq]
        omega
      obtain ⟨s, turn, pushed⟩ := benchTurn_push x admitted ready
      have length : s.buf.length = b.machine.buf.length + 1 := by rw [pushed.buf, List.length_append]; rfl
      obtain ⟨t, go, taken⟩ := ih (atRest { b with machine := s, pending := xs })
        (by rw [← admitted, atRest_cfg, pushed.cfg]) (atRest_atRest _)
        (by simp only [atRest_pending, atRest_buf, atRest_cfg, pushed.cfg]; omega)
        (by simp only [atRest_pending]; omega)
      refine ⟨t, ?_, ?_, taken.trace.trans pushed.trace, taken.pending⟩
      · rw [if_pos ready, turn]; exact go
      · rw [taken.buf, atRest_buf, atRest_pending, pushed.buf, front, List.append_assoc, List.singleton_append]

theorem settle_of_room {b : Bench} (admitted : b.machine.cfg.admitted = true)
    (room : b.machine.buf.length + b.pending.length ≤ b.machine.cfg.depth) :
    ∃ t, settle b = .ok t ∧ TakenWhole b t := by
  obtain ⟨t, go, taken⟩ := offerGo_of_room (2 * b.pending.length + b.machine.buf.length + 1) (atRest b) admitted
    (atRest_atRest b) room (by rw [atRest_pending]; omega)
  exact ⟨t, go, taken.buf, taken.trace, taken.pending⟩

end Sys2Proof.Machine

namespace Sys2Proof
open Machine

/-- Settles O58: the chunk is all that is pending, and with room for it the source's rounds are pushes only
(`offerGo_of_room`). -/
theorem ingestWithRoomAppendsTheChunk : Obligations.IngestWithRoomAppendsTheChunk := by
  intro b chunk started admitted idle room
  have pending : b.pending ++ chunk = chunk := by rw [idle, List.nil_append]
  obtain ⟨t, run, taken⟩ := settle_of_room (b := { b with pending := b.pending ++ chunk }) admitted
    (by rw [pending]; exact room)
  refine ⟨t, ?_, ?_, taken.trace, taken.pending⟩
  · rw [runCommand, whenStarted, started]; exact run
  · rw [taken.buf, pending]

/-- Settles O42: what no operation changes is read off its effect (`Effect.surroundings`); the rest operation by operation,
from what each one's next state can be. -/
theorem operationsChangeOnlyTheirElements : Obligations.OperationsChangeOnlyTheirElements := by
  intro i s t h
  obtain ⟨cfg, pins, decIn, sched⟩ := (exec_effect h).surroundings
  refine ⟨cfg, pins, decIn, sched, ?_⟩
  cases i with
  | reset =>
    obtain ⟨-, rfl⟩ | ⟨-, rfl⟩ := execReset_next h <;> exact ⟨rfl, rfl, rfl⟩
  | cancel =>
    obtain ⟨-, -, rfl⟩ | rfl := execCancel_next h <;> exact ⟨rfl, rfl, rfl, rfl, rfl⟩
  | push =>
    obtain ⟨-, -, rfl⟩ | rfl := execPush_next h <;> exact ⟨rfl, rfl, rfl, rfl, rfl, rfl, rfl, rfl⟩
  | accept =>
    obtain ⟨-, -, -, rfl⟩ | rfl := execAccept_next h <;> exact ⟨rfl, rfl, rfl, rfl, rfl⟩
  | inStall | outStall | scanWaitMin | scanWaitLen | scanHoldOut =>
    cases h
    rfl
  | scanDrop =>
    obtain ⟨-, -, -, dropped⟩ | unchanged := execScanDrop_cases s
    · cases dropped.symm.trans h
      exact ⟨rfl, rfl, rfl, rfl, rfl, rfl⟩
    · cases unchanged.symm.trans h
      exact ⟨rfl, rfl, rfl, rfl, rfl, rfl⟩
  | scanFrame =>
    obtain ⟨-, -, -, -, framed⟩ | unchanged := execScanFrame_cases s
    · cases framed.symm.trans h
      exact ⟨dispatchFrame_dropPulse _ _, dispatchFrame_received _ _, dispatchFrame_decOut _ _⟩
    · cases unchanged.symm.trans h
      exact ⟨rfl, rfl, rfl⟩
  | decTooShort | decBadHeader | decCksumMismatch | decOk =>
    obtain ⟨d, rfl⟩ := execDec_next rfl h
    rfl

/-- Settles O3: with `rst = 0` and `cancel = 1` CANCEL empties the buffer and clears the pulses. -/
theorem cancelEmptiesOnlyTheBuffer : Obligations.CancelEmptiesOnlyTheBuffer :=
  fun _ _ _ _ _ rst cancel => execCancel_of_cancel rst cancel

/-- Settles O4: with room the offered byte selects PUSH, and the room is what `in_ready` asks for. -/
theorem pushAppendsTheOfferedByte : Obligations.PushAppendsTheOfferedByte := by
  intro s rst cancel offered room
  have ready : inReady s = true := (inReady_iff s).mpr ⟨rst, cancel, room⟩
  exact ⟨(select_input_of_offered rst cancel offered).trans (if_pos room),
    fun _ _ => execPush_of_ready offered ready⟩

/-- Settles O5: without room the offered byte selects IN_STALL, which has no branch that changes anything. -/
theorem fullBufferStallsTheSource : Obligations.FullBufferStallsTheSource :=
  ⟨fun _ rst cancel offered full =>
    ⟨inReady_of_full full, (select_input_of_offered rst cancel offered).trans (if_neg full.not_gt)⟩,
    fun _ _ _ _ => rfl⟩

/-- Settles O44: each operation's guard fails under any one of its disabling conditions. -/
theorem disabledOperationsChangeNothing : Obligations.DisabledOperationsChangeNothing := fun _ =>
  ⟨fun h _ _ _ _ _ => execReset_of_disabled h,
    fun h _ _ _ _ => execCancel_of_disabled h,
    fun h _ _ => execPush_of_disabled h,
    fun h _ _ _ => execAccept_of_disabled h,
    fun h _ _ _ _ => execScanDrop_of_disabled h,
    execScanFrame_of_disabled⟩

end Sys2Proof

/-! PROOFS. The packet scanner (41_scanner.md): what its rows do, the reference events of a stream that is split in two, and
that every step keeps the emitted events on the reference sequence and the bytes accounted for (R130, R132). -/

namespace Sys2Proof.Machine

/-! ## The two enabled rows (R122, R125) -/

/-- The row reads nothing of its own free bits. -/
theorem exec_scanDrop_of_enabled {s : State} (rst : s.pins.rst = false) (cancel : s.pins.cancel = false)
    (long : minLen ≤ s.buf.length) (noHeader : headerAt s.buf = false) (l o : Bool) (b0 b1 : Byte) :
    exec (.scanDrop l o b0 b1) s =
      .next (emit .drop (setDropPulse { s with buf := s.buf.drop 1, consumed := s.consumed + 1 })) := by
  have state : scanState s.cfg s.buf s.outValid = .drop := (scanState_drop_iff _ _ _).mpr ⟨long, noHeader⟩
  have row := (scannerWordSelectsScanState s rst).2 cancel
  rw [state] at row
  exact (takeTurn_of_select_some row).symm.trans (takeTurn_drop rst cancel state)

theorem exec_scanFrame_of_enabled {s : State} (rst : s.pins.rst = false) (cancel : s.pins.cancel = false)
    (unpresented : s.outValid = false) (long : minLen ≤ s.buf.length) (header : headerAt s.buf = true) :
    exec .scanFrame s = .next (dispatchFrame (decodeFrame s.cfg (s.buf.take (sliceLen s.cfg)))
      { s with buf := s.buf.drop (sliceLen s.cfg), consumed := s.consumed + sliceLen s.cfg }) := by
  have state : scanState s.cfg s.buf s.outValid = .frame :=
    (scanState_frame_iff _ _ _).mpr ⟨long, header, unpresented⟩
  have row := (scannerWordSelectsScanState s rst).2 cancel
  rw [state] at row
  exact (takeTurn_of_select_some row).symm.trans (takeTurn_frame rst cancel state)

/-! ## The literal configuration (R134) -/

theorem sliceLen_literal {c : Config} (literal : c.lenFromByte1 = true) : sliceLen c = 44 := by
  rw [sliceLen, declLen, if_pos literal]
  rfl

theorem sliceLen_conforming {c : Config} (conforming : c.lenFromByte1 = false) : sliceLen c = 47 := by
  rw [sliceLen, declLen, conforming]
  rfl

theorem decodeFrame_short (c : Config) {f : List Byte} (short : f.length < minLen) :
    decodeFrame c f = .err .tooShort :=
  if_pos short

/-- R134: a slice of 44 bytes is too short for Decode. -/
theorem decodeFrame_literal_slice {c : Config} (literal : c.lenFromByte1 = true) (m : Memory) :
    decodeFrame c (m.take (sliceLen c)) = .err .tooShort := by
  refine decodeFrame_short c ?_
  rw [sliceLen_literal literal, List.length_take, minLen_eq]
  omega

/-! ## The event of an operation -/

/-- R21: what an operation can emit; inside the block Decode is called on the slice at the front only. -/
theorem Effect.event_cases {s t : State} {e : Event} (h : Effect s t) (emitted : t.trace = s.trace ++ [e]) :
    e = .acc ∨ e = .drop ∨ (minLen ≤ s.buf.length ∧ headerAt s.buf = true ∧
      e = frameEvent (decodeFrame s.cfg (s.buf.take (sliceLen s.cfg)))) := by
  have silent : s.trace ≠ s.trace ++ [e] := fun same => by simpa using congrArg List.length same
  have only {x : Event} (one : s.trace ++ [x] = s.trace ++ [e]) : e = x := by simpa using one.symm
  cases h with
  | same | reset | cancel | push | decode => exact absurd emitted silent
  | accept => exact .inl (only emitted)
  | drop => exact .inr (.inl (only emitted))
  | frame long header =>
    rw [dispatchFrame_trace] at emitted
    exact .inr (.inr ⟨long, header, only emitted⟩)

/-! ## The reference sequence of a split stream (R132) -/

/-- R132: the events of a stream are those of its beginning, then those of what that leaves followed by the rest. -/
theorem reference_append (c : Config) (x y : List Byte) :
    reference c (x ++ y) =
      ((reference c x).1 ++ (reference c ((reference c x).2 ++ y)).1,
        (reference c ((reference c x).2 ++ y)).2) := by
  rcases Nat.lt_or_ge x.length minLen with short | long
  · rw [reference_short c x short, List.nil_append]
  · have longer : minLen ≤ (x ++ y).length := by rw [List.length_append]; omega
    have pos : 1 ≤ x.length := by rw [minLen_eq] at long; omega
    cases header : headerAt x with
    | false =>
      rw [reference_drop c (x ++ y) longer (by rw [headerAt_append x y long, header]),
        List.drop_append_of_le_length pos, reference_append c (x.drop 1) y, reference_drop c x long header,
        List.cons_append]
    | true =>
      have slice : sliceLen c ≤ x.length := (sliceLen_le c).trans long
      rw [reference_frame c (x ++ y) longer (by rw [headerAt_append x y long, header]),
        List.take_append_of_le_length slice, List.drop_append_of_le_length slice,
        reference_append c (x.drop (sliceLen c)) y, reference_frame c x long header, List.cons_append]
termination_by x.length
decreasing_by
  all_goals
    have := sliceLen_pos c
    rw [List.length_drop]
    omega

/-- R122: junk in which no header starts is dropped byte by byte, where enough bytes follow that its last one is the first of
47. -/
theorem reference_junk_append (c : Config) (junk rest : List Byte) (long : minLen ≤ rest.length + 1)
    (noHeader : ∀ k, k < junk.length → headerAt ((junk ++ rest).drop k) = false) :
    reference c (junk ++ rest) =
      (List.replicate junk.length .drop ++ (reference c rest).1, (reference c rest).2) := by
  induction junk with
  | nil => rfl
  | cons b junk ih =>
    have longer : minLen ≤ (b :: junk ++ rest).length := by rw [List.length_append, List.length_cons]; omega
    have dropped := ih fun k hk => noHeader (k + 1) (Nat.succ_lt_succ hk)
    rw [reference_drop c _ longer (noHeader 0 (Nat.succ_pos _)), List.cons_append, List.drop_one, List.tail_cons,
      dropped, List.length_cons, List.replicate_succ, List.cons_append]

/-- R7: a run of one byte other than `HDR0` holds no header. -/
theorem headerAt_replicate {b : Byte} (notHdr0 : b ≠ hdr0) (n : Nat) : headerAt (List.replicate n b) = false := by
  cases n with
  | zero => rfl
  | succ n => exact Bool.eq_false_iff.mpr fun header => notHdr0 ((headerAt_iff _).mp header).1

/-- R125: a stream that is one good frame gives its record. -/
theorem reference_encodeFrame {c : Config} (conforming : c.lenFromByte1 = false) {r : Record} (npts : r.npts = 12)
    (points : r.points.length = 12) (spare : Byte) :
    reference c (encodeFrame r [spare]) = ([.record r], []) := by
  have length : (encodeFrame r [spare]).length = 47 := by rw [length_encodeFrame, points]; rfl
  have slice : sliceLen c = 47 := sliceLen_conforming conforming
  rw [reference_frame c _ length.ge (headerAt_encodeFrame r [spare]), slice, List.take_of_length_le length.le,
    List.drop_of_length_le length.le,
    frameDecodesToItsRecord c r [spare] conforming npts points (List.cons_ne_nil _ _)]
  rfl

/-! ## The events since the last reset or cancel -/

theorem isScanEvent_frameEvent (d : DecodeResult) : isScanEvent (frameEvent d) = true := by
  cases d <;> rfl

theorem eventBytes_frameEvent (c : Config) (d : DecodeResult) : eventBytes c (frameEvent d) = sliceLen c := by
  cases d <;> rfl

@[simp] theorem epochEvents_beginStep (s : State) : epochEvents (beginStep s) = epochEvents s := by
  rw [epochEvents, epochEvents, beginStep_trace, beginStep_epochStart]

theorem epochEvents_of_restart {t : State} (mark : t.epochStart = t.trace.length) : epochEvents t = [] := by
  rw [epochEvents, mark, List.drop_length, List.filter_nil]

/-- R185: a scanner's event joins them. -/
theorem epochEvents_of_scanEvent {s t : State} {e : Event} (inTrace : EpochInTrace s) (scan : isScanEvent e = true)
    (mark : t.epochStart = s.epochStart) (trace : t.trace = s.trace ++ [e]) :
    epochEvents t = epochEvents s ++ [e] := by
  rw [epochEvents, epochEvents, mark, trace, List.drop_append_of_le_length inTrace, List.filter_append,
    List.filter_cons_of_pos scan, List.filter_nil]

/-- R185: an accept is no event of the scanner. -/
theorem epochEvents_of_acc {s t : State} (inTrace : EpochInTrace s) (mark : t.epochStart = s.epochStart)
    (trace : t.trace = s.trace ++ [.acc]) : epochEvents t = epochEvents s := by
  rw [epochEvents, epochEvents, mark, trace, List.drop_append_of_le_length inTrace, List.filter_append,
    List.filter_cons_of_neg Bool.false_ne_true, List.filter_nil, List.append_nil]

/-! ## What an operation does to the stream and its events -/

/-- The four things that can happen to the stream pushed since the last reset or cancel, the bytes held of it, and the
scanner's events. -/
inductive StreamEffect (s t : State) : Prop
  /-- RESET and CANCEL. -/
  | restarted (stream : t.stream = []) (buf : t.buf = []) (events : epochEvents t = [])
  /-- An ACCEPT, a standalone Decode call, or no change. -/
  | unchanged (stream : t.stream = s.stream) (buf : t.buf = s.buf) (events : epochEvents t = epochEvents s)
  | pushed (b : Byte) (stream : t.stream = s.stream ++ [b]) (buf : t.buf = s.buf ++ [b])
      (events : epochEvents t = epochEvents s)
  /-- DROP and FRAME: the reference's first event, with the bytes that belong to it. -/
  | scanned (e : Event) (stream : t.stream = s.stream) (held : eventBytes s.cfg e ≤ s.buf.length)
      (buf : t.buf = s.buf.drop (eventBytes s.cfg e)) (events : epochEvents t = epochEvents s ++ [e])
      (next : reference s.cfg s.buf = (e :: (reference s.cfg t.buf).1, (reference s.cfg t.buf).2))

theorem Effect.streamEffect {s t : State} (h : Effect s t) (inTrace : EpochInTrace s) : StreamEffect s t := by
  cases h with
  | same | decode => exact .unchanged rfl rfl rfl
  | accept => exact .unchanged rfl rfl (epochEvents_of_acc inTrace rfl rfl)
  | reset | cancel => exact .restarted rfl rfl (epochEvents_of_restart rfl)
  | push b => exact .pushed b rfl rfl rfl
  | drop long noHeader =>
    have front : 1 ≤ s.buf.length := by rw [minLen_eq] at long; omega
    exact .scanned .drop rfl front rfl (epochEvents_of_scanEvent inTrace rfl rfl rfl)
      (reference_drop s.cfg s.buf long noHeader)
  | frame long header =>
    refine .scanned (frameEvent (decodeFrame s.cfg (s.buf.take (sliceLen s.cfg)))) (dispatchFrame_stream _ _)
      ?_ ?_ ?_ ?_
    · rw [eventBytes_frameEvent]
      exact (sliceLen_le s.cfg).trans long
    · rw [dispatchFrame_buf, eventBytes_frameEvent]
    · exact epochEvents_of_scanEvent inTrace (isScanEvent_frameEvent _) (dispatchFrame_epochStart _ _)
        (dispatchFrame_trace _ _)
    · rw [dispatchFrame_buf]
      exact reference_frame s.cfg s.buf long header

/-- R132: a push joins the stream and the buffer alike (`reference_append`), and an event moves from those to come to those
emitted. -/
theorem StreamEffect.eventsFollowReference {s t : State} (h : StreamEffect s t) (cfg : t.cfg = s.cfg)
    (follows : EventsFollowReference s) : EventsFollowReference t := by
  unfold EventsFollowReference at follows ⊢
  rw [cfg]
  cases h with
  | restarted stream buf events => rw [stream, buf, events]; rfl
  | unchanged stream buf events => rw [stream, buf, events, follows]
  | pushed b stream buf events =>
    rw [stream, buf, events, reference_append s.cfg s.stream, follows, reference_append s.cfg s.buf,
      List.append_assoc]
  | scanned e stream held buf events next =>
    rw [stream, events, follows, next, List.append_assoc, List.singleton_append]

/-- R130: an event takes as many bytes from the buffer as it adds to the account. -/
theorem StreamEffect.bytesAccounted {s t : State} (h : StreamEffect s t) (cfg : t.cfg = s.cfg)
    (accounted : BytesAccounted s) : BytesAccounted t := by
  unfold BytesAccounted at accounted ⊢
  rw [cfg]
  cases h with
  | restarted stream buf events => rw [stream, buf, events]; rfl
  | unchanged stream buf events => rw [stream, buf, events, accounted]
  | pushed b stream buf events =>
    rw [stream, buf, events, List.length_append, List.length_append, ← accounted, Nat.add_assoc]
  | scanned e stream held buf events =>
    rw [stream, events, buf, List.map_append, List.sum_append, List.length_drop, List.map_singleton,
      List.sum_singleton]
    omega

/-- What a step does to the stream and its events, its beginning left out. -/
theorem step_streamEffect {s t : State} (inTrace : EpochInTrace s) (h : step s = .next t) :
    StreamEffect (beginStep s) t :=
  (step_effect h).2.streamEffect (beginStep_epochInTrace inTrace)

theorem step_eventsFollowReference {s t : State} (inTrace : EpochInTrace s) (follows : EventsFollowReference s)
    (h : step s = .next t) : EventsFollowReference t := by
  refine (step_streamEffect inTrace h).eventsFollowReference (step_effect h).2.cfg_eq ?_
  simpa only [EventsFollowReference, epochEvents_beginStep, beginStep_cfg, beginStep_stream, beginStep_buf]
    using follows

theorem step_bytesAccounted {s t : State} (inTrace : EpochInTrace s) (accounted : BytesAccounted s)
    (h : step s = .next t) : BytesAccounted t := by
  refine (step_streamEffect inTrace h).bytesAccounted (step_effect h).2.cfg_eq ?_
  simpa only [BytesAccounted, epochEvents_beginStep, beginStep_cfg, beginStep_stream, beginStep_buf] using accounted

/-! ## Runs -/

/-- What every step keeps holds wherever a run ends. -/
theorem run_keeps {M : Host.Core} {P : M.State → Prop} (keep : ∀ s t, P s → M.step s = .next t → P t) (k : Nat)
    {s t : M.State} (start : P s) (run : M.run k s = .next t) : P t := by
  induction k generalizing s with
  | zero =>
    cases run
    exact start
  | succ k ih =>
    rw [Host.Core.run] at run
    split at run
    next u taken => exact ih (keep s u start taken) run
    next => cases run
    next => cases run

/-- R132, as a run keeps it. -/
structure OnReference (c : Config) (s : State) : Prop where
  cfg : s.cfg = c
  inTrace : EpochInTrace s
  follows : EventsFollowReference s

theorem OnReference.step {c : Config} {s t : State} (on : OnReference c s) (h : step s = .next t) :
    OnReference c t where
  cfg := (step_cfg h).trans on.cfg
  inTrace := (step_effect h).2.epochInTrace (beginStep_epochInTrace on.inTrace)
  follows := step_eventsFollowReference on.inTrace on.follows h

/-- A scanner at rest with a free output holds fewer bytes than a frame needs (R65). -/
theorem short_of_scannerRests {s : State} (rests : scannerRests s = true) (unpresented : s.outValid = false) :
    s.buf.length < minLen := by
  obtain ⟨little | ⟨-, -, presented⟩, -⟩ := restingScannerHoldsLittle s rests
  · rw [minLen_eq] at little ⊢
    omega
  · exact absurd (unpresented.symm.trans presented) Bool.false_ne_true

/-- The bench property that asks for nothing. -/
theorem benchKeeps_true : BenchKeeps fun _ => True where
  rest _ := trivial
  push _ _ _ := trivial
  scan _ _ _ := trivial

end Sys2Proof.Machine

namespace Sys2Proof
open Machine

/-- Settles O49: the step is one `StreamEffect` on the begun state, and each of the four keeps the events on the reference
sequence. -/
theorem everyStepKeepsEventsOnReference : Obligations.EveryStepKeepsEventsOnReference :=
  fun _ _ => step_eventsFollowReference

/-- Settles O51: the same four effects keep the account of the bytes. -/
theorem everyStepKeepsBytesAccounted : Obligations.EveryStepKeepsBytesAccounted :=
  fun _ _ => step_bytesAccounted

/-- Settles O48: nothing has been pushed or emitted. -/
theorem eventsFollowReferenceAfterReset : Obligations.EventsFollowReferenceAfterReset := fun _ => rfl

/-- Settles O50: the events follow the reference from reset on and every step keeps that (`OnReference.step`); at rest with a
free output the buffer is too short for a further event. -/
theorem runsEmitTheReferenceEvents : Obligations.RunsEmitTheReferenceEvents := by
  intro c l k t _ run
  have start : OnReference c { State.resetWith c with sched := l } :=
    ⟨rfl, Nat.le_refl 0, eventsFollowReferenceAfterReset c⟩
  obtain ⟨rfl, -, follows⟩ := run_keeps (fun _ _ => OnReference.step) k start run
  rw [EventsFollowReference] at follows
  rw [follows]
  refine ⟨⟨_, rfl⟩, fun rests unpresented => ?_⟩
  rw [reference_short _ _ (short_of_scannerRests rests unpresented)]
  exact ⟨(List.append_nil _).symm, rfl⟩

/-- Settles O16: reset selects RESET, cancel nothing, and else the row is that of `scan_state`, which is never WAIT_LEN
(`scanState_ne_waitLen`). -/
theorem waitLenIsNeverSelected : Obligations.WaitLenIsNeverSelected := by
  refine fun s o => ⟨?_, rfl⟩
  cases rst : s.pins.rst with
  | true =>
    rw [select, if_pos rst, decodeInput_portWord_of_rst rst]
    nofun
  | false =>
    obtain ⟨cancelled, free⟩ := scannerWordSelectsScanState s rst
    cases cancel : s.pins.cancel with
    | true =>
      rw [cancelled cancel]
      nofun
    | false =>
      rw [free cancel]
      cases state : scanState s.cfg s.buf s.outValid with
      | waitLen => exact absurd state (scanState_ne_waitLen _ _ _)
      | waitMin | drop | holdOut | frame => nofun

/-- Settles O11: none of the three has a branch that changes anything. -/
theorem waitingScannerChangesNothing : Obligations.WaitingScannerChangesNothing :=
  fun _ => ⟨fun _ _ _ _ => rfl, fun _ => rfl, rfl⟩

/-- Settles O12: the enabled row, with the bytes' removal, the pulse and the event written out. -/
theorem dropRemovesOneByte : Obligations.DropRemovesOneByte :=
  fun _ l o b0 b1 rst cancel long noHeader => exec_scanDrop_of_enabled rst cancel long noHeader l o b0 b1

/-- Settles O13: the enabled row dispatches what Decode returns, here a record. -/
theorem goodFrameIsPresented : Obligations.GoodFrameIsPresented := by
  intro s r rst cancel unpresented long header decoded
  rw [exec_scanFrame_of_enabled rst cancel unpresented long header, decoded]
  rfl

/-- Settles O14: the enabled row dispatches what Decode returns, here an error. -/
theorem badFrameIsReported : Obligations.BadFrameIsReported := by
  intro s k rst cancel unpresented long header failed
  rw [exec_scanFrame_of_enabled rst cancel unpresented long header, failed]
  rfl

/-- Settles O17: the literal slice is too short for Decode (`decodeFrame_literal_slice`), so FRAME reports that, and no
operation has a record to emit. -/
theorem literalConfigurationEmitsNoRecord : Obligations.LiteralConfigurationEmitsNoRecord := by
  refine ⟨fun s literal rst cancel unpresented long header => ?_, fun s t r literal taken emitted => ?_⟩
  · have reported := badFrameIsReported s .tooShort rst cancel unpresented long header
      (decodeFrame_literal_slice literal _)
    rw [sliceLen_literal literal] at reported
    exact reported
  · have event := (step_effect taken).2.event_cases (e := .record r) (by rw [beginStep_trace, emitted])
    rw [decodeFrame_literal_slice (by rw [beginStep_cfg, literal])] at event
    simp [frameEvent] at event

/-- Settles O52: up to 46 bytes are no frame's worth; of a longer run all but the last 46 are junk in front of those
(`reference_junk_append`). -/
theorem junkStreamIsDroppedTo46 : Obligations.JunkStreamIsDroppedTo46 := by
  intro c m b notHdr0
  have short {n : Nat} (hn : n ≤ 46) : reference c (List.replicate n b) = ([], List.replicate n b) :=
    reference_short c _ (by rw [List.length_replicate, minLen_eq]; omega)
  rcases le_total m 46 with few | many
  · rw [short few, Nat.sub_eq_zero_of_le few, min_eq_left few, List.replicate_zero]
  · obtain ⟨n, rfl⟩ := Nat.exists_eq_add_of_le' many
    have noHeader (k : Nat) : headerAt ((List.replicate n b ++ List.replicate 46 b).drop k) = false := by
      rw [List.replicate_append_replicate, List.drop_replicate]
      exact headerAt_replicate notHdr0 _
    rw [← List.replicate_append_replicate, reference_junk_append c _ _ (by rw [List.length_replicate]; rfl)
      fun k _ => noHeader k, short le_rfl, Nat.add_sub_cancel, min_eq_right many, List.length_replicate, List.append_nil]

/-- Settles O53: the junk is dropped byte by byte (`reference_junk_append`), and the frame behind it is read whole
(`reference_encodeFrame`). -/
theorem scannerResynchronisesAfterJunk : Obligations.ScannerResynchronisesAfterJunk := by
  intro c junk r spare conforming npts points noHeader
  have long : minLen ≤ (encodeFrame r [spare]).length := by rw [length_encodeFrame, points]; exact le_rfl
  rw [reference_junk_append c junk _ (Nat.le_succ_of_le long) noHeader, reference_encodeFrame conforming npts points]

/-- Settles O59: the bench's loop has rounds enough to end (`scanUntil_ok`), and a DRAIN ends only where the scanner rests. -/
theorem drainLeavesTheScannerAtRest : Obligations.DrainLeavesTheScannerAtRest := by
  intro b started admitted
  obtain ⟨t, run, -, ends⟩ := scanUntil_ok benchKeeps_true (fun _ => false) (b := atRest b) admitted
    fun _ _ => trivial
  refine ⟨t, ?_, ends.resolve_left Bool.false_ne_true⟩
  rw [runCommand, whenStarted, started]
  exact run

end Sys2Proof

/-! PROOFS. The packet decoder (42_decoder.md): the four rows of a standalone call, the fields of a decoded record, which outcomes
the block's own slices allow, and what the truncating sum detects. A good frame is read as its summed bytes and the checksum
field behind them (`exists_body_of_ok`), so a changed frame is a changed one of the two. -/

namespace Sys2Proof.Machine

/-! ## The header and the checks of Decode (R152, R205) -/

/-- R7: the header test reads the first two bytes only. -/
theorem headerAt_congr {f g : List Byte} (same : ∀ k < 2, byteAt f k = byteAt g k) : headerAt f = headerAt g := by
  rw [headerAt, headerAt, same 0 Nat.two_pos, same 1 Nat.one_lt_two]

theorem headerAt_append_of_two_le {x : List Byte} (y : List Byte) (h : 2 ≤ x.length) : headerAt (x ++ y) = headerAt x :=
  headerAt_congr fun _ hk => byteAt_append_left x y (hk.trans_le h)

theorem decodeFrame_noHeader (c : Config) {f : List Byte} (long : minLen ≤ f.length) (noHeader : headerAt f = false) :
    decodeFrame c f = .err .badHeader := by
  rw [decodeFrame, if_neg long.not_gt, noHeader]
  rfl

/-- R161: behind a header the sums alone decide. -/
theorem decodeFrame_of_header (c : Config) {f : List Byte} (long : minLen ≤ f.length) (header : headerAt f = true) :
    decodeFrame c f = if checksumCalc f = checksumField f then .ok (parseRecord c f) else .err .checksumMismatch := by
  by_cases sums : checksumCalc f = checksumField f
  · rw [if_pos sums, decodeFrame_of_checks long header sums]
  · rw [decodeFrame, if_neg long.not_gt, header, if_neg sums, if_pos (bne_iff_ne.mpr sums)]
    rfl

/-! ## The rows of a standalone call (R151, R152, R161, R162) -/

theorem execDecTooShort_of_short {s : State} (short : s.decIn.length < minLen) :
    execDecTooShort s = .next { s with decOut := some (.err .tooShort) } :=
  if_pos (decide_eq_true short)

theorem shortFrame_of_long {f : List Byte} (long : minLen ≤ f.length) : shortFrame f = false :=
  decide_eq_false long.not_gt

theorem execDecBadHeader_of_noHeader {s : State} (long : minLen ≤ s.decIn.length) (noHeader : headerAt s.decIn = false) :
    execDecBadHeader s = .next { s with decOut := some (.err .badHeader) } := by
  rw [execDecBadHeader, shortFrame_of_long long, noHeader]
  rfl

theorem execDecCksumMismatch_of_ne {s : State} (long : minLen ≤ s.decIn.length) (header : headerAt s.decIn = true)
    (sums : checksumCalc s.decIn ≠ checksumField s.decIn) :
    execDecCksumMismatch s = .next { s with decOut := some (.err .checksumMismatch) } := by
  rw [execDecCksumMismatch, shortFrame_of_long long, header, checksumEq, beq_false_of_ne sums]
  rfl

theorem execDecOk_of_eq {s : State} (long : minLen ≤ s.decIn.length) (header : headerAt s.decIn = true)
    (sums : checksumCalc s.decIn = checksumField s.decIn) :
    execDecOk s = .next { s with decOut := some (.ok (parseRecord s.cfg s.decIn)) } := by
  rw [execDecOk, shortFrame_of_long long, header, checksumEq, beq_iff_eq.mpr sums]
  rfl

/-! ## The point count (R158) -/

theorem pointCount_of_header (c : Config) {f : List Byte} (header : headerAt f = true) :
    pointCount (declLen c (byteAt f 1)) = if c.lenFromByte1 then 11 else 12 := by
  rw [declLen_of_header header]
  cases reading : c.lenFromByte1 with
  | true => rw [sliceLen_literal reading]; rfl
  | false => rw [sliceLen_conforming reading]; rfl

theorem parseRecord_npts (c : Config) {f : List Byte} (header : headerAt f = true) :
    (parseRecord c f).npts.toNat = if c.lenFromByte1 then 11 else 12 := by
  rw [parseRecord, pointCount_of_header c header]
  cases c.lenFromByte1 <;> rfl

/-- R159: the points a record counts are read one after the other. -/
theorem parseRecord_points (c : Config) {f : List Byte} (header : headerAt f = true) :
    (parseRecord c f).points = (List.range (parseRecord c f).npts.toNat).map (pointAt f) := by
  rw [parseRecord_npts c header, ← pointCount_of_header c header]
  rfl

/-! ## The slice at the front of the buffer (R169) -/

/-- R169: a slice of the conforming length keeps the header that the scanner saw. -/
theorem decodeFrame_conforming_slice {c : Config} (conforming : c.lenFromByte1 = false) {m : Memory}
    (long : minLen ≤ m.length) (header : headerAt m = true) :
    (∃ r, decodeFrame c (m.take (sliceLen c)) = .ok r) ∨
      decodeFrame c (m.take (sliceLen c)) = .err .checksumMismatch := by
  have length : (m.take (sliceLen c)).length = minLen := by
    rw [sliceLen_conforming conforming]
    exact List.length_take_of_le long
  have kept : headerAt (m.take (sliceLen c)) = true := by
    rw [← headerAt_append _ (m.drop (sliceLen c)) length.ge, List.take_append_drop, header]
  rw [decodeFrame_of_header c length.ge kept]
  split
  · exact .inl ⟨_, rfl⟩
  · exact .inr rfl

/-! ## The sum of a frame's bytes (R160, R164) -/

@[simp] theorem byteSum_cons (b : Byte) (f : List Byte) : byteSum (b :: f) = b.toNat + byteSum f :=
  List.sum_cons

theorem byteSum_le (f : List Byte) : byteSum f ≤ 255 * f.length := by
  induction f with
  | nil => exact le_rfl
  | cons b f ih =>
    have byte := b.isLt
    rw [byteSum_cons, List.length_cons]
    omega

/-- R164(b), from any start value of the register. -/
theorem foldl_add_setWidth (f : List Byte) (acc : Half) :
    f.foldl (fun acc b => acc + b.setWidth 16) acc = acc + BitVec.ofNat 16 (byteSum f) := by
  induction f generalizing acc with
  | nil => exact (BitVec.add_zero acc).symm
  | cons b f ih =>
    rw [List.foldl_cons, ih, byteSum_cons, BitVec.ofNat_add, BitVec.add_assoc, BitVec.ofNat_toNat]

/-- Replacing one byte takes its value from the sum and adds the new one's. -/
theorem byteSum_set {f : List Byte} {k : Nat} (h : k < f.length) (b : Byte) :
    byteSum (f.set k b) + (byteAt f k).toNat = byteSum f + b.toNat := by
  induction f generalizing k with
  | nil => cases h
  | cons a f ih =>
    cases k with
    | zero =>
      change byteSum (b :: f) + a.toNat = _
      rw [byteSum_cons, byteSum_cons]
      omega
    | succ k =>
      have tail : byteSum (f.set k b) + (byteAt (a :: f) (k + 1)).toNat = _ := ih (Nat.lt_of_succ_lt_succ h)
      rw [List.set_cons_succ, byteSum_cons, byteSum_cons]
      omega

theorem byteAt_set_of_ne {f : List Byte} {i j : Nat} (h : i ≠ j) (b : Byte) : byteAt (f.set i b) j = byteAt f j := by
  rw [byteAt, byteAt, List.getD_eq_getElem?_getD, List.getD_eq_getElem?_getD, List.getElem?_set_ne h]

theorem byteAt_set_self {f : List Byte} {i : Nat} (h : i < f.length) (b : Byte) : byteAt (f.set i b) i = b := by
  rw [byteAt, List.getD_eq_getElem?_getD, List.getElem?_set_self h]
  rfl

theorem headerAt_set {f : List Byte} {k : Nat} (behind : 2 ≤ k) (b : Byte) : headerAt (f.set k b) = headerAt f :=
  headerAt_congr fun _ hj => byteAt_set_of_ne (by omega) b

/-- R161(b): one changed byte moves the sum by less than 65536. -/
theorem byteSum_set_ne {f : List Byte} {k : Nat} (h : k < f.length) {b : Byte} (changed : b ≠ byteAt f k) :
    BitVec.ofNat 16 (byteSum (f.set k b)) ≠ BitVec.ofNat 16 (byteSum f) := by
  intro same
  have moved := byteSum_set h b
  have residue : byteSum (f.set k b) % 2 ^ 16 = byteSum f % 2 ^ 16 := by
    simpa only [BitVec.toNat_ofNat] using congrArg BitVec.toNat same
  have old := (byteAt f k).isLt
  have new := b.isLt
  exact changed (BitVec.eq_of_toNat_eq (by omega))

/-- R161(c): the sum does not see the order of the bytes. -/
theorem byteSum_swap {f : List Byte} {i j : Nat} (hi : i < f.length) (hj : j < f.length) :
    byteSum ((f.set i (byteAt f j)).set j (byteAt f i)) = byteSum f := by
  have second : byteAt (f.set i (byteAt f j)) j = byteAt f j := by
    by_cases same : i = j
    · rw [same, byteAt_set_self hj]
    · exact byteAt_set_of_ne same _
  have first := byteSum_set hi (byteAt f j)
  have both := byteSum_set (f := f.set i (byteAt f j)) (by rwa [List.length_set]) (byteAt f i)
  rw [second] at both
  omega

/-! ## A frame as its summed bytes and its checksum field (R157, R160) -/

/-- Any two bytes are a field's. -/
theorem le16Bytes_append (x y : Byte) : le16Bytes (y ++ x) = [x, y] :=
  le16Bytes_le16 [x, y] 0

theorem length_append_le16Bytes (body : List Byte) (v : Half) : (body ++ le16Bytes v).length - 2 = body.length :=
  congrArg (· - 2) List.length_append

theorem take_append_checksumField {f : List Byte} (h : 2 ≤ f.length) :
    f.take (f.length - 2) ++ le16Bytes (checksumField f) = f := by
  rw [checksumField, le16Bytes_le16, ← span_zero (Nat.sub_le _ _), span_append_span f _ _ (Nat.zero_add _).symm,
    Nat.sub_add_cancel h, span_zero le_rfl, List.take_length]

theorem decodeFrame_append (c : Config) {body : List Byte} (long : minLen ≤ body.length + 2)
    (header : headerAt body = true) (v : Half) :
    decodeFrame c (body ++ le16Bytes v) =
      if BitVec.ofNat 16 (byteSum body) = v then .ok (parseRecord c (body ++ le16Bytes v))
      else .err .checksumMismatch := by
  have two : 2 ≤ body.length := by rw [minLen_eq] at long; omega
  rw [decodeFrame_of_header c (by rwa [List.length_append]) (by rw [headerAt_append_of_two_le _ two, header]),
    checksumCalc_append, checksumField_append]

/-- R162: a frame that decodes to a record is summed bytes behind a header, and a field that holds their sum. -/
theorem exists_body_of_ok {c : Config} {f : List Byte} {r : Record} (h : decodeFrame c f = .ok r) :
    ∃ body, minLen ≤ body.length + 2 ∧ headerAt body = true ∧ f = body ++ le16Bytes (BitVec.ofNat 16 (byteSum body)) := by
  obtain ⟨long, header, sums, -⟩ := decodeFrame_ok h
  have len : (f.take (f.length - 2)).length = f.length - 2 := List.length_take_of_le (Nat.sub_le _ _)
  rw [minLen_eq] at long
  have cut := take_append_checksumField (f := f) (by omega)
  refine ⟨f.take (f.length - 2), by rw [len, minLen_eq]; omega, ?_, ?_⟩
  · rwa [← headerAt_append_of_two_le _ (by rw [len]; omega), cut]
  · rw [← sums] at cut
    exact cut.symm

end Sys2Proof.Machine

namespace Sys2Proof
open Machine

/-- Settles O18: a block frame carries the header it was cut for, and the configuration alone decides whether its slice is long
enough; 47 zero bytes have no header. -/
theorem outcomesInsideTheBlock : Obligations.OutcomesInsideTheBlock := by
  refine ⟨fun s t e taken emitted => ?_,
    fun c => ⟨List.replicate 47 0, decodeFrame_noHeader c (by rw [List.length_replicate]; rfl) rfl⟩⟩
  rcases (step_effect taken).2.event_cases (e := e) (by rw [beginStep_trace, emitted]) with rfl | rfl | ⟨long, header, rfl⟩
  · simp
  · simp
  · rw [beginStep_buf] at long header
    rw [beginStep_cfg, beginStep_buf]
    cases reading : s.cfg.lenFromByte1 with
    | true => simp [decodeFrame_literal_slice reading, frameEvent]
    | false =>
      rcases decodeFrame_conforming_slice reading long header with ⟨r, decoded⟩ | decoded <;>
        simp [decoded, frameEvent]

/-- Settles O22: the parsed record's fields, each read as a little-endian number (`le16_toNat`). -/
theorem decodedFieldsComeFromTheFrame : Obligations.DecodedFieldsComeFromTheFrame := by
  intro c f r decoded
  obtain ⟨long, header, -, rfl⟩ := decodeFrame_ok decoded
  rw [minLen_eq] at long
  have points := parseRecord_points c header
  have last : f.length - 4 + 1 = f.length - 3 := by omega
  refine ⟨le16_toNat f 2, le16_toNat f 4, last ▸ le16_toNat f (f.length - 4), parseRecord_npts c header, ?_,
    fun i hi => ⟨pointAt f i, ?_, ?_, rfl⟩⟩
  · rw [points, List.length_map, List.length_range]
  · rw [points, List.getElem?_map, List.getElem?_range hi, Option.map_some]
  · rw [pointAt, le16_toNat, show 6 + 3 * i + 1 = 7 + 3 * i by omega]

/-- Settles O25: the summed bytes stay, so only their sum itself would be accepted in the field. -/
theorem checksumFieldChangeIsDetected : Obligations.ChecksumFieldChangeIsDetected := by
  intro c f r x y decoded
  obtain ⟨body, long, header, rfl⟩ := exists_body_of_ok decoded
  rw [length_append_le16Bytes, List.take_left, ← le16Bytes_append x y]
  intro changed
  rw [decodeFrame_append c long header, if_neg fun same => changed (by rw [same])]

/-- Settles O26: the field stays and the sum moves (`byteSum_set_ne`). -/
theorem payloadByteChangeIsDetected : Obligations.PayloadByteChangeIsDetected := by
  intro c f r k b decoded
  obtain ⟨body, long, header, rfl⟩ := exists_body_of_ok decoded
  rw [length_append_le16Bytes]
  intro behind inside changed
  rw [byteAt_append_left _ _ inside] at changed
  rw [List.set_append_left _ _ inside, decodeFrame_append c (by rwa [List.length_set]) (by rwa [headerAt_set behind]),
    if_neg (byteSum_set_ne inside changed)]

/-- Settles O27: the field stays and so does the sum (`byteSum_swap`). -/
theorem byteSwapIsNotDetected : Obligations.ByteSwapIsNotDetected := by
  intro c f r i j decoded
  obtain ⟨body, long, header, rfl⟩ := exists_body_of_ok decoded
  rw [length_append_le16Bytes]
  intro hi insideI hj insideJ
  rw [byteAt_append_left _ _ insideI, byteAt_append_left _ _ insideJ, List.set_append_left _ _ insideI,
    List.set_append_left _ _ (by rwa [List.length_set]),
    decodeFrame_append c (by rwa [List.length_set, List.length_set]) (by rwa [headerAt_set hj, headerAt_set hi]),
    if_pos (by rw [byteSum_swap insideI insideJ])]
  exact ⟨_, rfl⟩

/-- Settles O28: the register holds the residue of the sum so far after each byte (`foldl_add_setWidth`). -/
theorem wrappingAccumulatorAgrees : Obligations.WrappingAccumulatorAgrees := fun _ =>
  (foldl_add_setWidth _ 0).trans (BitVec.zero_add _)

/-- Settles O19: each row under its own condition. -/
theorem standaloneDecodeRowsReturn : Obligations.StandaloneDecodeRowsReturn :=
  ⟨fun _ _ _ short => execDecTooShort_of_short short,
    fun _ _ long noHeader => execDecBadHeader_of_noHeader long noHeader,
    fun _ long header sums => execDecCksumMismatch_of_ne long header sums,
    fun _ long header sums => execDecOk_of_eq long header sums⟩

/-- Settles O20: the word asks Decode's questions in Decode's order (`decoderWordSelectsItsRows`), and each row answers as Decode
does. -/
theorem selectedRowReturnsDecode : Obligations.SelectedRowReturnsDecode := by
  intro s
  obtain ⟨tooShort, badHeader, mismatch, ok⟩ := standaloneDecodeRowsReturn
  simp only [decoderWordSelectsItsRows s.decIn, ← headerAt_iff]
  rcases Nat.lt_or_ge s.decIn.length minLen with short | long
  · rw [if_pos short, tooShort s _ _ short, decodeFrame_short _ short]
  · rw [if_neg long.not_gt]
    cases header : headerAt s.decIn with
    | false => rw [if_pos Bool.false_ne_true, badHeader s _ long header, decodeFrame_noHeader _ long header]
    | true =>
      rw [if_neg (not_not_intro rfl), decodeFrame_of_header _ long header]
      by_cases sums : checksumCalc s.decIn = checksumField s.decIn
      · rw [if_neg (not_not_intro sums), if_pos sums, ok s long header sums]
      · rw [if_pos sums, if_neg sums, mismatch s long header sums]

/-- Settles O29: 45 bytes sum to at most 45 * 255. -/
theorem sumOfABlockFrameDoesNotWrap : Obligations.SumOfABlockFrameDoesNotWrap := by
  intro f hlen
  have bound := byteSum_le (f.take 45)
  rw [List.length_take] at bound
  rw [checksumCalc, hlen, BitVec.toNat_ofNat]
  change byteSum (f.take 45) % 2 ^ 16 = _
  exact Nat.mod_eq_of_lt (by omega)

end Sys2Proof

/-! PROOFS. The output port (43_output.md): what it selects for a presented record, the accept that hands the record over, and
that no other operation touches the record while it is presented (R181). -/

namespace Sys2Proof.Machine

/-! ## What the output port selects -/

/-- R81: a presented record selects by the sink's readiness alone. -/
theorem select_output_of_presented {s : State} (rst : s.pins.rst = false) (presented : s.outValid = true) :
    select .output s =
      if s.pins.outReady then some (.accept s.pins.cancel s.pins.inValid (inReady s))
      else some (.outStall s.pins.cancel s.pins.inValid (inReady s)) := by
  obtain ⟨-, output, -⟩ := portWordSelectsItsRows s
  rw [output, rst, presented, if_neg Bool.false_ne_true, if_pos rfl]

/-! ## What becomes of a presented record -/

theorem execAccept_of_ready {s : State} (rst : s.pins.rst = false) (presented : s.outValid = true)
    (ready : s.pins.outReady = true) : execAccept s = .next (handOver s) :=
  if_pos (by rw [rst, presented, ready]; rfl)

/-- R181: an operation keeps a presented record, unless it is the accept or a reset; a frame is not enabled (R124). -/
theorem Effect.presented_cases {s t : State} (h : Effect s t) (presented : s.outValid = true) :
    (t.outValid = true ∧ t.outRec = s.outRec) ∨ t = handOver s ∨ s.pins.rst = true := by
  cases h with
  | same | cancel | push | drop | decode => exact .inl ⟨presented, rfl⟩
  | accept => exact .inr (.inl rfl)
  | reset rst => exact .inr (.inr rst)
  | frame _ _ unpresented => exact absurd presented (Bool.eq_false_iff.mp unpresented)

end Sys2Proof.Machine

namespace Sys2Proof
open Machine

/-- Settles O9: the step's beginning leaves a presented record as it is (`beginStep_outRec_of_outValid`), and of the operations
only the accept and a reset end it (`Effect.presented_cases`). -/
theorem presentedRecordStaysUntilAccepted : Obligations.PresentedRecordStaysUntilAccepted := by
  intro s t taken presented
  have bus := beginStep_outRec_of_outValid presented
  rcases (step_effect taken).2.presented_cases (by rw [beginStep_outValid, presented]) with
    ⟨valid, same⟩ | rfl | rst
  · exact .inl ⟨valid, same.trans bus⟩
  · refine .inr (.inl ⟨handOver_outValid _, ?_, ?_⟩)
    · rw [handOver_trace, beginStep_trace]
    · rw [handOver_received, beginStep_received, bus]
  · exact .inr (.inr rst)

/-- Settles O7: ACCEPT's guard asks for neither `cancel` nor the row's free bits, and `handOver` is the hand-over of R180. -/
theorem acceptHandsTheRecordOver : Obligations.AcceptHandsTheRecordOver :=
  fun _ _ _ _ rst presented ready => execAccept_of_ready rst presented ready

/-- Settles O8: without a ready sink the presented record selects OUT_STALL, which has no branch that changes anything. -/
theorem stalledSinkChangesNothing : Obligations.StalledSinkChangesNothing :=
  ⟨fun _ rst presented notReady =>
    (select_output_of_presented rst presented).trans (if_neg (Bool.eq_false_iff.mp notReady)),
    fun _ _ _ _ => rfl⟩

end Sys2Proof

/-! PROOFS. The order of the packet decoder's checks (R205). -/

namespace Sys2Proof
open Machine

/-- Settles O21: the three checks, asked in Decode's order, cut the byte sequences into four classes, and Decode answers each
class with one outcome (`decodeFrame_short`, `decodeFrame_noHeader`, `decodeFrame_of_header`). -/
theorem decodeReportsTheFirstDefect : Obligations.DecodeReportsTheFirstDefect := by
  intro c f
  simp only [← headerAt_iff]
  rcases Nat.lt_or_ge f.length minLen with short | long
  · simp [decodeFrame_short c short, short, short.not_ge]
  · cases header : headerAt f with
    | false => simp [decodeFrame_noHeader c long header, long, long.not_gt]
    | true =>
      rw [decodeFrame_of_header c long header]
      by_cases sums : checksumCalc f = checksumField f
      · simp [sums, long, long.not_gt]
      · simp [sums, long, long.not_gt]

end Sys2Proof

/-! PROOFS. RESET (R230) and the clocked reference edge (70_reset_and_hazards.md, R245): each part of an edge is one agent's
turn, and the turns taken before a port's turn leave its operation enabled (R206). -/

namespace Sys2Proof.Machine

/-! ## Turns in a row -/

theorem takeTurns_append {ts us : List Turn} {s u : State} (h : takeTurns ts s = .next u) :
    takeTurns (ts ++ us) s = takeTurns us u := by
  induction ts generalizing s with
  | nil => cases h; rfl
  | cons t ts ih =>
    obtain ⟨s', taken⟩ := takeTurn_completes t s
    simp only [List.cons_append, takeTurns, taken] at h ⊢
    exact ih h

theorem takeTurns_singleton {t : Turn} {s u : State} (h : takeTurn t s = .next u) : takeTurns [t] s = .next u := by
  simp only [takeTurns, h]

/-- A turn that an edge takes only if its operation is enabled. -/
theorem takeTurns_if {enabled : Bool} {t : Turn} {s u : State} (h : enabled = true → takeTurn t s = .next u) :
    takeTurns (if enabled then [t] else []) s = .next (if enabled then u else s) := by
  cases enabled with
  | false => rfl
  | true => exact takeTurns_singleton (h rfl)

/-- The accept of an edge: it is computed before the other turns, so it must still be enabled after them. -/
theorem takeTurns_accept_if {acc : Bool} {s : State} (rst : s.pins.rst = false)
    (stays : acc = true → s.outValid = true ∧ s.pins.outReady = true) :
    takeTurns (if acc then [.output] else []) s = .next (if acc then handOver s else s) :=
  takeTurns_if fun enabled =>
    have ⟨presented, ready⟩ := stays enabled
    takeTurn_accept rst presented ready

/-! ## The overriding turns of the input port (R81) -/

theorem takeTurn_reset {s : State} (rst : s.pins.rst = true) : takeTurn .input s = .next (resetAll s) := by
  obtain ⟨input, -, -⟩ := portWordSelectsItsRows s
  rw [rst, if_pos rfl] at input
  exact (takeTurn_of_select_some input).trans (execReset_of_rst rst)

theorem takeTurn_cancel {s : State} (rst : s.pins.rst = false) (cancel : s.pins.cancel = true) :
    takeTurn .input s = .next (clearPulses (bufEmpty s)) := by
  obtain ⟨input, -, -⟩ := portWordSelectsItsRows s
  rw [rst, cancel, if_neg Bool.false_ne_true, if_pos rfl] at input
  exact (takeTurn_of_select_some input).trans (execCancel_of_cancel rst cancel)

/-- The pulses are off when a step begins, so that CANCEL, which clears them too, empties the buffer only (R104). -/
theorem clearPulses_bufEmpty_tick (s : State) : clearPulses (bufEmpty (tick s)) = bufEmpty (tick s) := by
  unfold tick
  split <;> rfl

/-! ## The scanner's part of an edge -/

theorem edgeScan_of_drop {s : State} (state : scanState s.cfg s.buf s.outValid = .drop) :
    edgeScan s = emit .drop (setDropPulse { s with buf := s.buf.drop 1, consumed := s.consumed + 1 }) := by
  rw [edgeScan, state]
  rfl

theorem edgeScan_of_frame {s : State} (state : scanState s.cfg s.buf s.outValid = .frame) :
    edgeScan s = dispatchFrame (decodeFrame s.cfg (s.buf.take (sliceLen s.cfg)))
      { s with buf := s.buf.drop (sliceLen s.cfg), consumed := s.consumed + sliceLen s.cfg } := by
  rw [edgeScan, state]
  rfl

theorem edgeScan_of_rests {s : State} (rests : scannerRests s = true) : edgeScan s = s := by
  obtain ⟨notDrop, notFrame⟩ := (scannerRests_iff s).mp rests
  unfold edgeScan
  split
  next drop => exact absurd drop notDrop
  next frame => exact absurd frame notFrame
  next => rfl

/-- R29: the scanner rests, or its state is one of the two with an enabled step. -/
theorem scannerRests_or (s : State) :
    scannerRests s = true ∨ scanState s.cfg s.buf s.outValid = .drop ∨ scanState s.cfg s.buf s.outValid = .frame := by
  rw [scannerRests_iff, ← not_or]
  exact (Classical.em _).symm

theorem takeTurn_of_rests {s : State} (rst : s.pins.rst = false) (cancel : s.pins.cancel = false)
    (rests : scannerRests s = true) : takeTurn .scanner s = .next s := by
  obtain ⟨notDrop, notFrame⟩ := (scannerRests_iff s).mp rests
  have row := (scannerWordSelectsScanState s rst).2 cancel
  cases state : scanState s.cfg s.buf s.outValid with
  | drop => exact absurd state notDrop
  | frame => exact absurd state notFrame
  | waitMin | waitLen | holdOut =>
    rw [state] at row
    exact takeTurn_of_select_some row

theorem takeTurn_scanner_eq_edgeScan {s : State} (rst : s.pins.rst = false) (cancel : s.pins.cancel = false) :
    takeTurn .scanner s = .next (edgeScan s) := by
  rcases scannerRests_or s with rests | drop | frame
  · rw [edgeScan_of_rests rests, takeTurn_of_rests rst cancel rests]
  · rw [edgeScan_of_drop drop, takeTurn_drop rst cancel drop]
  · rw [edgeScan_of_frame frame, takeTurn_frame rst cancel frame]

/-! ## What the scanner leaves to the ports (R206) -/

@[simp] theorem edgeScan_cfg (s : State) : (edgeScan s).cfg = s.cfg := by
  rcases scannerRests_or s with rests | drop | frame
  · rw [edgeScan_of_rests rests]
  · rw [edgeScan_of_drop drop, emit_cfg, setDropPulse_cfg]
  · rw [edgeScan_of_frame frame, dispatchFrame_cfg]

@[simp] theorem edgeScan_pins (s : State) : (edgeScan s).pins = s.pins := by
  rcases scannerRests_or s with rests | drop | frame
  · rw [edgeScan_of_rests rests]
  · rw [edgeScan_of_drop drop, emit_pins, setDropPulse_pins]
  · rw [edgeScan_of_frame frame, dispatchFrame_pins]

/-- The scanner only removes bytes, so that a buffer with room keeps it. -/
theorem edgeScan_buf_length_le (s : State) : (edgeScan s).buf.length ≤ s.buf.length := by
  rcases scannerRests_or s with rests | drop | frame
  · rw [edgeScan_of_rests rests]
  · rw [edgeScan_of_drop drop, emit_buf, setDropPulse_buf]
    exact List.drop_sublist 1 s.buf |>.length_le
  · rw [edgeScan_of_frame frame, dispatchFrame_buf]
    exact List.drop_sublist _ s.buf |>.length_le

/-- R124: a frame is held back while a record is presented, so that the record stays for the accept. -/
theorem edgeScan_outValid_of_presented {s : State} (presented : s.outValid = true) : (edgeScan s).outValid = true := by
  rcases scannerRests_or s with rests | drop | frame
  · rw [edgeScan_of_rests rests, presented]
  · rw [edgeScan_of_drop drop, emit_outValid, setDropPulse_outValid, presented]
  · obtain ⟨-, -, unpresented⟩ := (scanState_frame_iff _ _ _).mp frame
    exact absurd presented (Bool.eq_false_iff.mp unpresented)

/-! ## What an accept leaves to the push, where the edge takes one -/

theorem handOver_if_cfg (b : Bool) (s : State) : (if b then handOver s else s).cfg = s.cfg := by cases b <;> rfl
theorem handOver_if_pins (b : Bool) (s : State) : (if b then handOver s else s).pins = s.pins := by cases b <;> rfl
theorem handOver_if_buf (b : Bool) (s : State) : (if b then handOver s else s).buf = s.buf := by cases b <;> rfl

/-! ## The three kinds of edge (R206) -/

theorem takeTurns_edge_of_rst {p : Pins} (rst : p.rst = true) (s : State) :
    takeTurns (edgeTurns p s) (tick { s with pins := p }) = .next (clockEdge p s) := by
  simp only [edgeTurns, clockEdge, if_pos rst]
  exact takeTurns_singleton (takeTurn_reset (by rw [tick_pins, rst]))

theorem takeTurns_edge_of_cancel {p : Pins} (rst : p.rst = false) (cancel : p.cancel = true) (s : State) :
    takeTurns (edgeTurns p s) (tick { s with pins := p }) = .next (clockEdge p s) := by
  simp only [edgeTurns, clockEdge, rst, cancel, if_true, Bool.false_eq_true, if_false, tick_outValid]
  have emptied : takeTurn .input (tick { s with pins := p }) = .next (bufEmpty (tick { s with pins := p })) := by
    rw [takeTurn_cancel (by rw [tick_pins, rst]) (by rw [tick_pins, cancel]), clearPulses_bufEmpty_tick]
  rw [takeTurns_append (takeTurns_singleton emptied)]
  refine takeTurns_accept_if (by simp [rst]) fun acc => ?_
  rwa [bufEmpty_outValid, tick_outValid, bufEmpty_pins, tick_pins, ← Bool.and_eq_true_iff]

/-- The scanner leaves the accept enabled, and both leave the push enabled, because neither fills the buffer. -/
theorem takeTurns_edge_of_running {p : Pins} (rst : p.rst = false) (cancel : p.cancel = false) (s : State) :
    takeTurns (edgeTurns p s) (tick { s with pins := p }) = .next (clockEdge p s) := by
  simp only [edgeTurns, clockEdge, rst, cancel, Bool.false_eq_true, if_false, tick_outValid, tick_buf, tick_cfg]
  generalize begins : tick { s with pins := p } = u
  have pins : u.pins = p := by rw [← begins, tick_pins]
  have scanned : takeTurn .scanner u = .next (edgeScan u) :=
    takeTurn_scanner_eq_edgeScan (by rw [pins, rst]) (by rw [pins, cancel])
  have accepted : takeTurns (if s.outValid && p.outReady then [.output] else []) (edgeScan u) =
      .next (if s.outValid && p.outReady then handOver (edgeScan u) else edgeScan u) := by
    refine takeTurns_accept_if (by rw [edgeScan_pins, pins, rst]) fun acc => ?_
    obtain ⟨presented, ready⟩ := Bool.and_eq_true_iff.mp acc
    refine ⟨edgeScan_outValid_of_presented ?_, by rw [edgeScan_pins, pins, ready]⟩
    rw [← begins, tick_outValid, presented]
  rw [List.append_assoc, takeTurns_append (takeTurns_singleton scanned), takeTurns_append accepted]
  refine takeTurns_if fun push => ?_
  obtain ⟨offered, room⟩ := Bool.and_eq_true_iff.mp push
  have bytes : u.buf.length < u.cfg.depth := by
    rw [← begins, tick_buf, tick_cfg]
    exact of_decide_eq_true room
  have levels := (handOver_if_pins (s.outValid && p.outReady) (edgeScan u)).trans ((edgeScan_pins u).trans pins)
  rw [takeTurn_push (by rw [levels, rst]) (by rw [levels, cancel]) (by rw [levels, offered]), levels]
  rw [handOver_if_buf, handOver_if_cfg, edgeScan_cfg]
  exact (edgeScan_buf_length_le u).trans_lt bytes

end Sys2Proof.Machine

namespace Sys2Proof
open Machine

/-- Settles O1: the guard of RESET is met, and `resetAll` is the assignment that the statement writes out. -/
theorem resetSetsEveryElement : Obligations.ResetSetsEveryElement :=
  fun _ _ _ _ _ _ rst => execReset_of_rst rst

/-- Settles O57: `rst` overrides `cancel`, and `cancel` the scanner and the push (R206); each of the three kinds of edge is the
turns of its own parts. -/
theorem clockedEdgeIsAScheduleOfTurns : Obligations.ClockedEdgeIsAScheduleOfTurns := by
  intro p s
  cases rst : p.rst with
  | true => exact takeTurns_edge_of_rst rst s
  | false =>
    cases cancel : p.cancel with
    | true => exact takeTurns_edge_of_cancel rst cancel s
    | false => exact takeTurns_edge_of_running rst cancel s

end Sys2Proof

/-! PROOFS. Words of the opcode table in whole bytes (logs 10, 11): the bytes after an operation do not change what it decodes
to, and a group that rejects the bytes leaves them to the groups after it. -/

namespace Sys2Proof

/-! ## The bytes after an operation -/

/-- Only the rows with an operand read the byte after the port word, and that byte is their own operand. -/
theorem decodeInput_encodePort_append {i : Instr} (h : i.group = .input) (rest : List Byte) :
    decodeInput (encodePort i) ((operandBytes i ++ rest).headD 0) = .ok i := by
  cases i with
  | reset | cancel => exact decodeInput_pack _ _ _ _ _ _ _
  | push | inStall => exact decodeInput_encodePort h
  | _ => cases h

theorem decodeBytes_append {g : OpGroup} {bs rest : List Byte} {i : Instr} (h : decodeBytes g bs = .ok (i, rest))
    (more : List Byte) : decodeBytes g (bs ++ more) = .ok (i, rest ++ more) := by
  cases g with
  | input =>
    obtain ⟨p, rfl, decoded⟩ := decodeBytes_input_iff.mp h
    refine decodeBytes_input_iff.mpr ⟨p, by rw [List.cons_append, List.append_assoc], ?_⟩
    rw [← encodePort_decodeInput decoded]
    exact decodeInput_encodePort_append (decodeInput_group decoded) _
  | output =>
    obtain ⟨p, rfl, decoded⟩ := decodeBytes_output_iff.mp h
    exact decodeBytes_output_iff.mpr ⟨p, rfl, decoded⟩
  | scanner =>
    obtain ⟨w, rfl, decoded⟩ := decodeBytes_scanner_iff.mp h
    exact decodeBytes_scanner_iff.mpr ⟨w, List.append_assoc _ _ _, decoded⟩
  | decoder =>
    obtain ⟨w, rfl, decoded⟩ := decodeBytes_decoder_iff.mp h
    exact decodeBytes_decoder_iff.mpr ⟨w, rfl, decoded⟩

/-! ## The group that a word is read in -/

theorem firstDecoding_encode_append {i : Instr} (wf : i.wf = true) (more : List Byte) (after : List OpGroup) :
    firstDecoding (encode i ++ more) (i.group :: after) = some (i.group, i) := by
  simp only [firstDecoding, decodeBytes_append (encodedOperationDecodesToItself i wf) more]

theorem firstDecoding_cons_of_error {g : OpGroup} {bs : List Byte} {e : DecodeReject} (h : decodeBytes g bs = .error e)
    (after : List OpGroup) : firstDecoding bs (g :: after) = firstDecoding bs after := by
  simp only [firstDecoding, h]

/-- A word whose bytes begin with a well-formed operation's encoding is read as that operation, where its group stands first. -/
theorem decodeTableWord_of_first {nbits w : Nat} {i : Instr} {after : List OpGroup} {more : List Byte}
    (groups : tableGroups nbits = i.group :: after) (wf : i.wf = true) (bytes : tableBytes w = encode i ++ more) :
    decodeTableWord nbits w = some i := by
  rw [decodeTableWord, groups, bytes, firstDecoding_encode_append wf, Option.map_some]

/-- The same for the group in second place, where the first group rejects the bytes. -/
theorem decodeTableWord_of_second {nbits w : Nat} {g : OpGroup} {i : Instr} {after : List OpGroup} {more : List Byte}
    {e : DecodeReject} (groups : tableGroups nbits = g :: i.group :: after)
    (rejected : decodeBytes g (tableBytes w) = .error e) (wf : i.wf = true) (bytes : tableBytes w = encode i ++ more) :
    decodeTableWord nbits w = some i := by
  rw [decodeTableWord, groups, firstDecoding_cons_of_error rejected, bytes, firstDecoding_encode_append wf, Option.map_some]

/-- Settles O38: each word's bytes begin with its row's encoding. The word 0x03 carries no input operation, so it is left to the
output group, which stands before the decoder's (log 11). -/
theorem tableWordsDecodeToTheirRows : Obligations.TableWordsDecodeToTheirRows := by
  have noInput : decodeBytes .input (tableBytes 0x03) = .error .noInputOperation := by decide
  refine ⟨?reset, ?push, ?accept, ?scanHoldOut, ?scanFrame, ?decCksumMismatch⟩
  case accept => exact decodeTableWord_of_second (more := [0, 0, 0]) rfl noInput rfl (by decide)
  case push => exact decodeTableWord_of_first (more := [0, 0]) rfl rfl (by decide)
  case scanHoldOut | scanFrame => exact decodeTableWord_of_first (more := [0]) rfl rfl (by decide)
  case reset | decCksumMismatch => exact decodeTableWord_of_first (more := [0, 0, 0]) rfl rfl (by decide)

end Sys2Proof
